-- ==== Sys2Proof/Word.lean ====
section
/-! DEFINITION. The word types of the DMX4PI encoder and nothing else (spec/00_scope.md R9: widths). -/

namespace Sys2Proof

/-- A payload byte, 8 bits (spec/00_scope.md section 6). -/
abbrev Byte := BitVec 8

/-- A mask over the GPIO lines, bit `p` standing for line `p` (R9: 32 bits wide). -/
abbrev Mask := BitVec 32

/-- A pulse record's duration, an unsigned 32-bit count of microseconds (R9, R90). -/
abbrev Micros := BitVec 32

/-- A GPIO line: an index `p` with `0 <= p < NGPIO = 32` (R9, R20). A configuration register that holds
a pin holds one of these, so `validPin` is true of it by its type (R22). -/
abbrev Pin := Fin 32

end Sys2Proof
end

