-- ==== Sys2Proof/Syntax.lean ====
section
/-! DEFINITION. The operations of the DMX4PI encoder: one constructor of `Instr` for each of the 22 rows
of spec/opcode_table.json (R100), and the four raw formats an operation is read from (R90, R95, R101, R104). -/

namespace Sys2Proof

/-- A logical level of the serial line, mark or space (R14). -/
inductive Logical where
  | space
  | mark
deriving DecidableEq, Repr, Inhabited

/-- A pulse record (R90): drive the lines of `set` high and the lines of `clr` low, hold for `dur` microseconds. -/
structure Pulse where
  set : Mask
  clr : Mask
  dur : Micros
deriving DecidableEq, Repr, Inhabited

/-- The 22 operations (R100).  The host's commands take the operands R101 and R102 give them: `init`'s pins
are integers, judged by `validPin` in the abstract model (R102); `transmit` carries the length `N` of format
CMD, and its `N` payload bytes are the space BUF (R41), held in `State`.  START_PLAYBACK and DELETE_WAVE take
the handle, which is always 0 and carries no information, and START_PLAYBACK the mode `OneShot`, which has no
alternative: both are dropped (R165, R169; assumption 27).  The symbols carry the byte index `i` and the bit index `j` their
rules give as operands (R135 to R139); STOP has `none` for the start code's. -/
inductive Instr where
  | init (txPin enPin : Int) (invertTx invertEn : Bool)
  | transmit (n : Nat)
  | close
  | engineInit
  | engineTerm
  | setPinMode (pin : Int)
  | writePin (pin : Int) (level : Bool)
  | submitWave
  | startPlayback
  | isBusy
  | deleteWave
  | enEnable
  | enDisable
  | pulseHi (set : Mask) (dur : Micros)
  | pulseLo (clr : Mask) (dur : Micros)
  | symBreak
  | symMab
  | symSc
  | symStart (i : Nat)
  | symData0 (i : Nat) (j : Fin 8)
  | symData1 (i : Nat) (j : Fin 8)
  | symStop (i : Option Nat)
deriving DecidableEq, Repr

/-- What an operation is read from, one constructor for each format of spec/30_encoding.md: a command word
(R101); a call's selector with its typed operands, which have no bits (R104: an operand the call does not take is
ignored); a pulse record as one 96-bit word (R90); a symbol's table pattern with the index `k` of its pulse in the
sequence, from which its role is read (R95, R96). -/
inductive Raw where
  | cmd (word : BitVec 32)
  | call (sel : BitVec 4) (pin : Int) (level : Bool)
  | pulse (record : BitVec 96)
  | symbol (pattern : BitVec 6) (k : Nat)
deriving DecidableEq, Repr

end Sys2Proof
end

