-- ==== Sys2Proof/Config.lean ====
section
/-! DEFINITION. The implementation parameters of spec/00_scope.md section 4, and the free values: what the spec
leaves to the platform or calls a draw.  An `opaque` constant has no body, so nothing can be proved of its value. -/

namespace Sys2Proof

/-- The mode of a GPIO line (R26): `output`, or whatever other mode the platform left it in. -/
inductive PinMode where
  | output
  | other
deriving DecidableEq, Repr, Inhabited

/-- The bit-time unit `U` in microseconds (R7, decision D1). -/
def Config.u : Nat := 4

/-- `validPin p`: whether integer `p` is a usable GPIO index; the parameter's default `0 <= p < NGPIO`
(spec/00_scope.md section 4, decision D2; assumption 3). -/
def Config.validPin (p : Int) : Bool := decide (0 ≤ p) && decide (p < 32)

/-- `N_MAX`, the largest payload length the pulse memories hold; `none` means unbounded.  The parameter's default
512 (R8, decision D4; assumption 4). -/
def Config.nMax : Option Nat := some 512

/-- `W0(N)`, the completion detector's first wait in units of `U` (spec/00_scope.md section 4, R299). -/
def Config.w0 (n : Nat) : Nat := 22 + 2 + 10 + n

/-- `Q`, the completion detector's poll quantum in units of `U` (decision D19, R298). -/
def Config.q : Nat := 10

/-- FREE VALUE. Whether ENGINE_INIT succeeds when `State.env` lists no answer: "a draw per call" (decision D27, U12),
applied to the number of free values drawn before it (assumption 5). -/
opaque Config.engineInitOk : Nat → Bool

/-- `pinModeOk(p)` when `State.env` lists no answer: the parameter's default, always true
(spec/00_scope.md section 4, decision D27; assumption 6). -/
def Config.pinModeOk : Bool := true

/-- FREE VALUE. `gpioResetLevel(p)`: the level of each line after power-on, a draw (R47, D21, U10; assumption 7). -/
opaque Config.gpioResetLevel : Pin → Bool

/-- FREE VALUE. `gpioResetMode(p)`: the mode of each line after power-on, a draw (R47, D21, U10; assumption 7). -/
opaque Config.gpioResetMode : Pin → PinMode

/-- FREE VALUE. What record `k` of a pulse memory holds when nothing has written it: unspecified
(R47, U14; assumption 8). -/
opaque Config.unwrittenPulse : Nat → Pulse

/-- FREE VALUE. The contents of `x[0]` when no configuration exists: "If stored, any value" (U14), applied to
the number of free values drawn before (assumption 12). -/
opaque Config.unsetTxPin : Nat → Pin

/-- FREE VALUE. `x[1]` with no configuration (assumption 12). -/
opaque Config.unsetEnPin : Nat → Pin

/-- FREE VALUE. `x[2]` with no configuration (assumption 12). -/
opaque Config.unsetInvertTx : Nat → Bool

/-- FREE VALUE. `x[3]` with no configuration (assumption 12). -/
opaque Config.unsetInvertEn : Nat → Bool

/-- What a byte of BUF that the host has not written reads as (assumption 9, DESIGN CHOICE, unsafe). -/
def Config.unwrittenByte : Byte := 0

end Sys2Proof
end

