-- ==== Sys2Proof/Machine/State.lean ====
section
/-! DEFINITION. The state of the DMX4PI encoder as plain data: the groups CFG, ENG, GPIO, PS, WAVE, SEQ and TC of
spec/10_state.md, the payload space BUF (R41), and the model's own fields, named as such; the reasons a step stops;
and the state after reset (R47). -/

namespace Sys2Proof.Machine

/-! ### The groups of spec/10_state.md -/

/-- CFG, the configuration registers `x[0..3]` (R20).  Held as an optional record, `none` when `CFG.valid = 0`, as
R21 asks of a model. -/
structure PinConfig where
  /-- `x[0]` -/
  txPin : Pin
  /-- `x[1]` -/
  enPin : Pin
  /-- `x[2]` -/
  invertTx : Bool
  /-- `x[3]` -/
  invertEn : Bool
deriving DecidableEq, Repr

/-- One GPIO line: its mode (R26) and the physical level driven on it, `true` = high (R27). -/
structure Line where
  mode : PinMode
  level : Bool
deriving DecidableEq, Repr

/-- A pulse memory, PS (R28) or WAVE (R29): its valid bit and its records in index order.  `len` is the number of
records, so it is stored once. -/
structure PulseStore where
  valid : Bool
  entry : List Pulse
deriving DecidableEq, Repr

/-- SEQ: the engine's busy flag (R30), the record index, which is the block's program counter (R31), and the time
left of the current record's hold, in microseconds (R32). -/
structure Sequencer where
  busy : Bool
  idx : Nat
  rem : Nat
deriving DecidableEq, Repr

/-- `TC.wstep`, the worker's position (R35). -/
inductive WorkerStep where
  | wEnable
  | wSubmit
  | wStart
  | wWait
  | wDisable
  | wDelete
  | wFree
  | wDone
deriving DecidableEq, Repr

/-- TC: a transmission is in flight (R34), the worker's position (R35), the payload length latched at acceptance
(R36), and the completion detector's timer, the microseconds until its next look at IS_BUSY (R260, R298). -/
structure Controller where
  inflight : Bool
  wstep : WorkerStep
  n : Nat
  look : Nat
deriving DecidableEq, Repr

/-- The payload space BUF (R41), one byte an index, as pairs of index and byte. -/
abbrev Memory := List Host.Cell

/-! ### What is observed (R11) -/

/-- The three host commands (R200). -/
inductive Command where
  | init
  | transmit
  | close
deriving DecidableEq, Repr

/-- The result of a command: success or one of the seven errors (R240). -/
inductive Code where
  | ok
  | alreadyInitialized
  | notInitialized
  | hardwareInitFailed
  | invalidPinError
  | pinModeError
  | samePinError
  | busy
deriving DecidableEq, Repr

/-- An event of the trace (R11). -/
inductive Event where
  | resp (cmd : Command) (code : Code)
  | pin (p : Pin) (level : Bool)
  | pulse (k : Nat) (set clr : Mask) (dur : Micros)
  | idle
  | done
deriving DecidableEq, Repr

/-- How SET_PIN_MODE fails (R162). -/
inductive PinError where
  | invalidPin
  | pinMode
deriving DecidableEq, Repr

/-- The result of an internal call (R104): `Ok`, an error of ENGINE_INIT (R160) or of SET_PIN_MODE (R162), the handle
of SUBMIT_WAVE, always 0 (R165), or the answer of IS_BUSY (R167). -/
inductive CallResult where
  | ok
  | engineErr
  | pinErr (e : PinError)
  | handle
  | busy (b : Bool)
deriving DecidableEq, Repr

/-! ### Who moves next (R10, R71) -/

/-- One turn of the interleaving (R71): which agent takes the next step, and with what input.  `host` is a command
word with the bytes of the stream that follows it, `BUF[0]` first (R101).  `hostStore` is the host writing its own buffer
(R41, R69).  `worker` and `sequencer` give the turn to that agent.  `elapse` lets time pass (R12).  `internal` puts one
operation on the block's internal call port (R104): the host cannot (R259). -/
inductive Turn where
  | host (word : BitVec 32) (bytes : List Byte)
  | hostStore (i : Nat) (b : Byte)
  | worker
  | sequencer
  | elapse (micros : Nat)
  | internal (raw : Raw)
deriving DecidableEq, Repr

/-- The environment's answers still to come (R10, R46): one for each ENGINE_INIT, one for each SET_PIN_MODE on a valid
pin; and how many free values have been drawn, the counter they are applied to. -/
structure Environment where
  engineInitOk : List Bool
  pinModeOk : List Bool
  drawn : Nat
deriving DecidableEq, Repr

/-! ### The state -/

/-- Everything the spec gives the block, and the model's own fields, marked "model". -/
structure State where
  /-- CFG: `x[0..3]` and `CFG.valid` (R20, R21) -/
  cfg : Option PinConfig
  /-- `ENG.up` (R25) -/
  engUp : Bool
  /-- `GPIO.mode[p]` and `GPIO.level[p]` (R26, R27) -/
  gpio : Vector Line 32
  /-- PS, the worker's pulse sequence (R28) -/
  ps : PulseStore
  /-- WAVE, the engine's waveform (R29) -/
  wave : PulseStore
  /-- SEQ (R30 to R32) -/
  seq : Sequencer
  /-- TC (R33 to R36) -/
  tc : Controller
  /-- BUF, the host's payload buffer (R41) -/
  buf : Memory
  /-- model: the environment's answers to come (R46) -/
  env : Environment
  /-- model: the result of the last call on the internal port that returned one (R104) -/
  callResult : Option CallResult
  /-- model: the turns to come; when it is empty the block runs by itself -/
  agenda : List Turn
  /-- model: the event trace, oldest first (R11, R46) -/
  trace : List Event
  /-- model: microseconds since reset (R12) -/
  now : Nat
deriving DecidableEq, Repr

/-! ### Why a step stops -/

/-- The one fault of the spec (spec/93_implementation_defined.md, after the table). -/
inductive Fault where
  /-- Raised by CLOSE while a transmission is in flight (R230, R233, U3).  Safe: the source defines nothing there. -/
  | closeInFlight
deriving DecidableEq, Repr

/-- The refusals: the four of spec/93_implementation_defined.md, and those of encodings and states it gives no
meaning. -/
inductive Refusal where
  /-- Raised by an arm of `exec` whose instruction has no meaning yet.  Safe. -/
  | notModelled (mnemonic : String)
  /-- Raised by TRANSMIT, configured and idle, with `N > N_MAX` (R8, R210, U6).  Safe. -/
  | payloadTooLong
  /-- Raised by the front end for a reserved command word (R105, U7).  Safe. -/
  | reservedCommand
  /-- Raised by the sequencer, PULSE.HI and PULSE.LO for a record the encoder never makes (R106, R174, U8).  Safe. -/
  | reservedPulse
  /-- Raised by a primitive or an enable-line operation called when its requirements do not hold (R177, U9), by an
  INIT that makes such a call, and by the sequencer playing an invalid waveform.  Safe. -/
  | engineMisuse
  /-- Raised by the internal port for a selector that names nothing (R104).  Safe. -/
  | reservedCall
  /-- Raised by the internal port for a pattern and index that are no symbol (R95, R96).  Safe. -/
  | reservedSymbol
deriving DecidableEq, Repr

/-- The outcome of a step of this machine. -/
abbrev Outcome := Host.Outcome State Fault Refusal

/-! ### Reset -/

/-- The state after reset (R47, R280): every flag 0, the trace empty, GPIO modes and levels draws; SEQ.idx, SEQ.rem,
TC.wstep, TC.N and the detector's timer, which the spec leaves unspecified and unread, hold the values of
assumption 11; nothing is listed in BUF and no input is waiting. -/
def State.reset : State :=
  { cfg := none
    engUp := false
    gpio := Vector.ofFn fun p => { mode := Config.gpioResetMode p, level := Config.gpioResetLevel p }
    ps := { valid := false, entry := [] }
    wave := { valid := false, entry := [] }
    seq := { busy := false, idx := 0, rem := 0 }
    tc := { inflight := false, wstep := .wEnable, n := 0, look := 0 }
    buf := []
    env := { engineInitOk := [], pinModeOk := [], drawn := 0 }
    callResult := none
    agenda := []
    trace := []
    now := 0 }

end Sys2Proof.Machine
end

