-- ==== Sys2Proof/Machine/Flags.lean ====
section
/-! DEFINITION. The block's six one-bit flags (R37) and what a host can tell of them (R33, R200).  No operation computes
a flag from a result: each is written by the operations R37 lists and by nothing else. -/

namespace Sys2Proof.Machine

/-- `CFG.valid`: a configuration exists (R21). -/
def cfgValid (s : State) : Bool := s.cfg.isSome

/-- The six flags of R37, in the order of its table. -/
structure FlagSet where
  cfgValid : Bool
  engUp : Bool
  inflight : Bool
  busy : Bool
  psValid : Bool
  waveValid : Bool
deriving DecidableEq, Repr

/-- The six flags of a state (R37). -/
def flags (s : State) : FlagSet :=
  { cfgValid := cfgValid s
    engUp := s.engUp
    inflight := s.tc.inflight
    busy := s.seq.busy
    psValid := s.ps.valid
    waveValid := s.wave.valid }

/-- Sets `ENG.up` (R160, R161). -/
def setEngUp (b : Bool) (s : State) : State := { s with engUp := b }

/-- Sets `TC.inflight` (R210, R224). -/
def setInflight (b : Bool) (s : State) : State := { s with tc := { s.tc with inflight := b } }

/-- Sets `SEQ.busy` (R166, R173, R160, R161). -/
def setBusy (b : Bool) (s : State) : State := { s with seq := { s.seq with busy := b } }

/-- Sets `PS.valid` (R140, R222). -/
def setPsValid (b : Bool) (s : State) : State := { s with ps := { s.ps with valid := b } }

/-- Sets `WAVE.valid` (R164, R168, R160, R161). -/
def setWaveValid (b : Bool) (s : State) : State := { s with wave := { s.wave with valid := b } }

/-- The source's TransmissionState: Busy exactly when `TC.inflight = 1` (R33). -/
inductive TransmissionState where
  | idle
  | busy
deriving DecidableEq, Repr

/-- The TransmissionState of a state (R33). -/
def transmissionState (s : State) : TransmissionState := if s.tc.inflight then .busy else .idle

/-- The three host-visible conditions of the block (R200). -/
inductive Condition where
  | unconfigured
  | configuredIdle
  | inFlight
deriving DecidableEq, Repr

/-- The host-visible condition of a state (R200, R234). -/
def condition (s : State) : Condition :=
  if s.tc.inflight then .inFlight else if cfgValid s then .configuredIdle else .unconfigured

/-- The 3-bit code of a command's result on the response port (R103, R240). -/
def codeBits : Code → BitVec 3
  | .ok => 0
  | .alreadyInitialized => 1
  | .notInitialized => 2
  | .hardwareInitFailed => 3
  | .invalidPinError => 4
  | .pinModeError => 5
  | .samePinError => 6
  | .busy => 7

end Sys2Proof.Machine
end

