-- ==== Sys2Proof/Decode.lean ====
section
/-! DEFINITION. From bits to operations and back: format CMD (R101, R102, R105), format CALL (R104), format PULSE
(R90, R91, R106), the symbols (R95, R96), and the serialised form of a record (R62).  `decode` is total and rejects
by name; `encode` is written from the same tables. -/

namespace Sys2Proof

/-- Why an encoding names no operation: a reserved command word (R105), a selector `1010` to `1111` (R104), a
reserved record (R106), or a pattern and index that are no symbol (R95, R96). -/
inductive DecodeError where
  | reservedCommand
  | reservedCall
  | reservedPulse
  | reservedSymbol
deriving DecidableEq, Repr

/-! ### Format CMD -/

/-- Bits `[lo+len-1 : lo]` of a command word, as a number (R102: unsigned). -/
def cmdField (w : BitVec 32) (lo len : Nat) : Nat := (w.toNat / 2 ^ lo) % 2 ^ len

/-- A command word: op in `[1:0]`; INIT's txPin in `[9:2]`, enPin in `[17:10]`, invertTx in `[18]`, invertEn in
`[19]`, `[31:20]` zero; TRANSMIT's length in `[31:2]`; CLOSE's `[31:2]` zero; op `11` reserved (R101, R102, R105). -/
def decodeCmd (w : BitVec 32) : Except DecodeError Instr :=
  match cmdField w 0 2 with
  | 0 =>
    if cmdField w 20 12 = 0 then
      .ok (.init (cmdField w 2 8 : Nat) (cmdField w 10 8 : Nat) (cmdField w 18 1 == 1) (cmdField w 19 1 == 1))
    else .error .reservedCommand
  | 1 => .ok (.transmit (cmdField w 2 30))
  | 2 => if cmdField w 2 30 = 0 then .ok .close else .error .reservedCommand
  | _ => .error .reservedCommand

/-- A bit as a number, 1 = true (R102). -/
def bit (b : Bool) : Nat := if b then 1 else 0

/-- The word of INIT: `txPin << 2 | enPin << 10 | invertTx << 18 | invertEn << 19`, op `00` (R101, V13). -/
def encodeInit (txPin enPin : Int) (invertTx invertEn : Bool) : BitVec 32 :=
  BitVec.ofNat 32 (txPin.toNat * 2 ^ 2 + enPin.toNat * 2 ^ 10 + bit invertTx * 2 ^ 18 + bit invertEn * 2 ^ 19)

/-- The word of TRANSMIT: the length in `[31:2]`, op `01` (R101). -/
def encodeTransmit (n : Nat) : BitVec 32 := BitVec.ofNat 32 (n * 2 ^ 2 + 1)

/-! ### Format CALL -/

/-- The call named by a selector (R104); `1010` to `1111` name nothing. -/
def decodeCall (sel : BitVec 4) (pin : Int) (level : Bool) : Except DecodeError Instr :=
  match sel.toNat with
  | 0 => .ok .engineInit
  | 1 => .ok .engineTerm
  | 2 => .ok (.setPinMode pin)
  | 3 => .ok (.writePin pin level)
  | 4 => .ok .submitWave
  | 5 => .ok .startPlayback
  | 6 => .ok .isBusy
  | 7 => .ok .deleteWave
  | 8 => .ok .enEnable
  | 9 => .ok .enDisable
  | _ => .error .reservedCall

/-! ### Format PULSE -/

/-- The mask of one line, `1 << p`: a 32-bit word with only bit `p` set (R92). -/
def pinMask (p : Pin) : Mask := 1#32 <<< p.val

/-- Whether a mask names exactly one line, that is, is `1 << p` for some line `p` (R91). -/
def oneLine (m : Mask) : Bool := (List.finRange 32).any fun p => m == pinMask p

/-- A record as one 96-bit word: `set` in `[95:64]`, `clr` in `[63:32]`, `dur` in `[31:0]` (R90). -/
def pulseWord (r : Pulse) : BitVec 96 := r.set ++ r.clr ++ r.dur

/-- The three fields of a 96-bit record (R90). -/
def wordPulse (w : BitVec 96) : Pulse :=
  { set := w.extractLsb' 64 32, clr := w.extractLsb' 32 32, dur := w.extractLsb' 0 32 }

/-- The form of a record: PULSE.HI when `clr = 0` and `set` names one line, PULSE.LO when `set = 0` and `clr` names
one line, `dur > 0` in both (R91).  Every other record is reserved (R106 a, b, c, d); that the line is `x[0]` depends
on the configuration and is checked where the record is applied. -/
def decodeRecord (r : Pulse) : Except DecodeError Instr :=
  if r.dur = 0 then .error .reservedPulse
  else if r.clr = 0 ∧ oneLine r.set = true then .ok (.pulseHi r.set r.dur)
  else if r.set = 0 ∧ oneLine r.clr = true then .ok (.pulseLo r.clr r.dur)
  else .error .reservedPulse

/-- The four bytes of a 32-bit field, least significant first (R62, decision D25). -/
def fieldBytes (v : BitVec 32) : List Byte :=
  [v.extractLsb' 0 8, v.extractLsb' 8 8, v.extractLsb' 16 8, v.extractLsb' 24 8]

/-- A record serialised to twelve bytes: little-endian, `set` first, then `clr`, then `dur` (R62, decision D25). -/
def pulseBytes (r : Pulse) : List Byte := fieldBytes r.set ++ fieldBytes r.clr ++ fieldBytes r.dur

/-- The record twelve serialised bytes stand for (R62), `none` for any other number of bytes. -/
def bytesPulse : List Byte → Option Pulse
  | [a0, a1, a2, a3, b0, b1, b2, b3, c0, c1, c2, c3] =>
    some { set := a3 ++ a2 ++ a1 ++ a0, clr := b3 ++ b2 ++ b1 ++ b0, dur := c3 ++ c2 ++ c1 ++ c0 }
  | _ => none

/-! ### Symbols -/

/-- A symbol's table pattern: the level bit (mark = 1), then the number of units as 5 bits (R95). -/
def symbolPattern (level : Logical) (units : Nat) : BitVec 6 :=
  (if level = .mark then 1#1 else 0#1) ++ BitVec.ofNat 5 units

/-- The pattern and the role of pulse `k` of a sequence, from its index and from nothing else: 0 BREAK, 1 MAB, 2 SC,
3 STOP; from 4 on, with `i = (k - 4) div 10` and `r = (k - 4) mod 10`, `r = 0` START, `r = 9` STOP, and otherwise data
bit `r - 1` of byte `i` (R96), whose value `b` tells DATA1 from DATA0.  The patterns are those of the table (R95). -/
def symbolAt (k : Nat) (b : Bool) : BitVec 6 × Instr :=
  if k = 0 then (0b010110#6, .symBreak)
  else if k = 1 then (0b100010#6, .symMab)
  else if k = 2 then (0b001001#6, .symSc)
  else if k = 3 then (0b100010#6, .symStop none)
  else if (k - 4) % 10 = 0 then (0b000001#6, .symStart ((k - 4) / 10))
  else if h : (k - 4) % 10 - 1 < 8 then
    if b then (0b100001#6, .symData1 ((k - 4) / 10) ⟨(k - 4) % 10 - 1, h⟩)
    else (0b000001#6, .symData0 ((k - 4) / 10) ⟨(k - 4) % 10 - 1, h⟩)
  else (0b100010#6, .symStop (some ((k - 4) / 10)))

/-- A symbol: its role comes from the index `k` (R96), the value of a data pulse from the pattern's level bit; the
pattern must then be that symbol's own (R95). -/
def decodeSymbol (pattern : BitVec 6) (k : Nat) : Except DecodeError Instr :=
  if pattern = (symbolAt k (pattern.getLsbD 5)).1 then .ok (symbolAt k (pattern.getLsbD 5)).2
  else .error .reservedSymbol

/-! ### The whole map -/

/-- The operation a raw form names, or the name of the reason it names none. -/
def decode : Raw → Except DecodeError Instr
  | .cmd w => decodeCmd w
  | .call sel pin level => decodeCall sel pin level
  | .pulse w => decodeRecord (wordPulse w)
  | .symbol pattern k => decodeSymbol pattern k

/-- The raw form of an operation, from the tables of R90, R95, R96, R101 and R104. -/
def encode : Instr → Raw
  | .init txPin enPin invertTx invertEn => .cmd (encodeInit txPin enPin invertTx invertEn)
  | .transmit n => .cmd (encodeTransmit n)
  | .close => .cmd 0x00000002#32
  | .engineInit => .call 0x0#4 0 false
  | .engineTerm => .call 0x1#4 0 false
  | .setPinMode pin => .call 0x2#4 pin false
  | .writePin pin level => .call 0x3#4 pin level
  | .submitWave => .call 0x4#4 0 false
  | .startPlayback => .call 0x5#4 0 false
  | .isBusy => .call 0x6#4 0 false
  | .deleteWave => .call 0x7#4 0 false
  | .enEnable => .call 0x8#4 0 false
  | .enDisable => .call 0x9#4 0 false
  | .pulseHi set dur => .pulse (pulseWord { set := set, clr := 0, dur := dur })
  | .pulseLo clr dur => .pulse (pulseWord { set := 0, clr := clr, dur := dur })
  | .symBreak => .symbol (symbolPattern .space 22) 0
  | .symMab => .symbol (symbolPattern .mark 2) 1
  | .symSc => .symbol (symbolPattern .space 9) 2
  | .symStart i => .symbol (symbolPattern .space 1) (4 + 10 * i)
  | .symData0 i j => .symbol (symbolPattern .space 1) (4 + 10 * i + 1 + j.val)
  | .symData1 i j => .symbol (symbolPattern .mark 1) (4 + 10 * i + 1 + j.val)
  | .symStop none => .symbol (symbolPattern .mark 2) 3
  | .symStop (some i) => .symbol (symbolPattern .mark 2) (4 + 10 * i + 9)

/-! ### The rows of spec/opcode_table.json -/

/-- The index a symbol's pattern is given when only its bits are known: the first pulse with that pattern
(R96: BREAK at 0, MAB at 1, SC at 2, START at 4, DATA1 at 5).  START and DATA0, and MAB and STOP, share a pattern
(R95); the bits alone cannot name DATA0 or STOP (assumption 10). -/
def firstIndexOf (pattern : BitVec 6) : Nat :=
  if pattern = symbolPattern .space 22 then 0
  else if pattern = symbolPattern .mark 2 then 1
  else if pattern = symbolPattern .space 9 then 2
  else if pattern = symbolPattern .space 1 then 4
  else 5

/-- The raw form of a row's bits.  A row of 32 bits is a command word and one of 96 bits a pulse record.  The rows of
format CALL have 4 bits and the symbols 6, one byte each when counted in whole bytes: a byte below 10 is a call's
selector and any other a symbol's pattern (assumption 10).  The rows of MAB and STOP carry a field `dur_at_U4` the reader
made of a remark, at bit 8: of a row of 16 bits the low byte is the pattern.  Operands that have no bits are 0. -/
def tableRaw (nbits w : Nat) : Option Raw :=
  if nbits = 32 then if w < 2 ^ 32 then some (.cmd (BitVec.ofNat 32 w)) else none
  else if nbits = 96 then if w < 2 ^ 96 then some (.pulse (BitVec.ofNat 96 w)) else none
  else if nbits = 4 then if w < 2 ^ 4 then some (.call (BitVec.ofNat 4 w) 0 false) else none
  else if nbits = 6 then
    if w < 2 ^ 6 then some (.symbol (BitVec.ofNat 6 w) (firstIndexOf (BitVec.ofNat 6 w))) else none
  else if nbits = 8 then
    if w < 10 then some (.call (BitVec.ofNat 4 w) 0 false)
    else if w < 2 ^ 6 then some (.symbol (BitVec.ofNat 6 w) (firstIndexOf (BitVec.ofNat 6 w)))
    else none
  else if nbits = 16 then
    if w % 2 ^ 8 < 2 ^ 6 then some (.symbol (BitVec.ofNat 6 w) (firstIndexOf (BitVec.ofNat 6 w))) else none
  else none

/-- The instruction the decoder reads from a row's bits, `none` where it refuses. -/
def decodeTableWord (nbits w : Nat) : Option Instr :=
  match tableRaw nbits w with
  | none => none
  | some raw =>
    match decode raw with
    | .ok i => some i
    | .error _ => none

end Sys2Proof
end

