-- ==== Sys2Proof/Machine/Operands.lean ====
section
/-! DEFINITION. Operand forms: a pin operand (R162, D2), the two levels (R14), the TX mask and the record of a symbol
(R92 to R94, R131), the level of EN (R192), the selected data bit (R138), and which records are reserved (R106). -/

namespace Sys2Proof.Machine

/-- A pin operand as a GPIO line, `none` when `validPin` is false of it (R162, D2). -/
def pinOf (p : Int) : Option Pin :=
  if Config.validPin p then some (Fin.ofNat 32 p.toNat) else none

/-- The physical level of a logical level on TX: `L ^ invertTx`, with mark = 1, space = 0, high = 1 (R14, R93). -/
def physicalTx (level : Logical) (invertTx : Bool) : Bool := (level == .mark) ^^ invertTx

/-- The physical level of EN: `enabled ^ invertEn` (R192). -/
def physicalEn (enabled invertEn : Bool) : Bool := enabled ^^ invertEn

/-- The duration of `n` units: `n · U` microseconds, zero-extended into the 32-bit field (R94). -/
def duration (n : Nat) : Micros := BitVec.ofNat 32 (n * Config.u)

/-- `mkPulse(L, n)`: the record for logical level `L` held for `n` units, in form PULSE.HI or PULSE.LO as the
polarity selects (R131, R93). -/
def mkPulse (c : PinConfig) (level : Logical) (n : Nat) : Pulse :=
  if physicalTx level c.invertTx then { set := pinMask c.txPin, clr := 0, dur := duration n }
  else { set := 0, clr := pinMask c.txPin, dur := duration n }

/-- The logical level of data bit `j` of a byte: space if the bit is 0, else mark (R14, R138). -/
def dataLevel (b : Byte) (j : Nat) : Logical := if b.getLsbD j then .mark else .space

/-- Whether a record is of a kind the encoder never makes under configuration `c` (R106): it is not one of the two
forms of R91, or its line is not `x[0]`.  With no configuration there is no `x[0]` to compare the line with, and a
record of the two forms on any one line is accepted (R170 to R172, assumption 13). -/
def reservedRecord (c : Option PinConfig) (r : Pulse) : Bool :=
  match c with
  | none => r.dur == 0 || !((oneLine r.set && r.clr == 0) || (r.set == 0 && oneLine r.clr))
  | some c =>
    r.dur == 0 || !((r.set == pinMask c.txPin && r.clr == 0) || (r.set == 0 && r.clr == pinMask c.txPin))

end Sys2Proof.Machine
end

