-- ==== Sys2Proof/Machine/Ops.lean ====
section
/-! DEFINITION. The named operations every meaning is written over: BUF, the pulse memories, the GPIO bank, the trace,
a command's result and `raise` (R250), the environment's draws, the eight engine primitives (R160 to R168) and the two
enable-line operations (R190, R191). -/

namespace Sys2Proof.Machine

/-! ### BUF -/

/-- The byte BUF holds at index `i`. -/
def Memory.read : Memory → Nat → Byte
  | [], _ => Config.unwrittenByte
  | (a, v) :: m, i => if i = a then v else Memory.read m i

/-- BUF after the host writes byte `b` at index `i`, in canonical form: writing what an unlisted index reads as
removes the entry. -/
def Memory.write : Memory → Nat → Byte → Memory
  | [], i, b => if b = Config.unwrittenByte then [] else [(i, b)]
  | (a, v) :: m, i, b =>
    if i < a then (if b = Config.unwrittenByte then (a, v) :: m else (i, b) :: (a, v) :: m)
    else if i = a then (if b = Config.unwrittenByte then m else (i, b) :: m)
    else (a, v) :: Memory.write m i b

/-- Whether every index of `m` is at least `lo`, indices rise strictly, and no entry equals what an unlisted index
reads as. -/
def Memory.wfFrom : Nat → Memory → Bool
  | _, [] => true
  | lo, (a, v) :: m => decide (lo ≤ a) && v != Config.unwrittenByte && Memory.wfFrom (a + 1) m

/-- The canonical form of BUF. -/
def Memory.wf (m : Memory) : Bool := Memory.wfFrom 0 m

/-- BUF after the bytes of a stream are placed at `i`, `i + 1`, ... in order (R101: `BUF[0]` first). -/
def Memory.place : Memory → Nat → List Byte → Memory
  | m, _, [] => m
  | m, i, b :: bs => Memory.place (Memory.write m i b) (i + 1) bs

/-- The payload: bytes `0 .. n-1` of BUF in ascending order (R41, R61, R69). -/
def payload (s : State) (n : Nat) : List Byte := (List.range n).map fun i => Memory.read s.buf i

/-! ### The pulse memories -/

/-- `MemRead`: record `k` of a pulse memory (R66). -/
def readRecord (rs : List Pulse) (k : Nat) : Pulse := rs.getD k (Config.unwrittenPulse k)

/-- `MemWrite`: a pulse memory after record `k` is written whole (R66).  `base` is the index of the list's first
element; records below `k` that nothing has written stay unspecified. -/
def writeRecord (base : Nat) : List Pulse → Nat → Pulse → List Pulse
  | [], 0, r => [r]
  | [], k + 1, r => Config.unwrittenPulse base :: writeRecord (base + 1) [] k r
  | _ :: rs, 0, r => r :: rs
  | q :: rs, k + 1, r => q :: writeRecord (base + 1) rs k r

/-- `PS.entry[k] <- r` (R132 to R139). -/
def setPsRecord (k : Nat) (r : Pulse) (s : State) : State :=
  { s with ps := { s.ps with entry := writeRecord 0 s.ps.entry k r } }

/-! ### The configuration registers -/

/-- What the registers `x[0..3]` hold: the configuration, or free values when there is none (U14). -/
def readConfig (s : State) : PinConfig :=
  match s.cfg with
  | some c => c
  | none =>
    { txPin := Config.unsetTxPin s.env.drawn
      enPin := Config.unsetEnPin s.env.drawn
      invertTx := Config.unsetInvertTx s.env.drawn
      invertEn := Config.unsetInvertEn s.env.drawn }

/-- The state after the registers are read: with no configuration a free value has been drawn. -/
def afterReadConfig (s : State) : State :=
  match s.cfg with
  | some _ => s
  | none => { s with env := { s.env with drawn := s.env.drawn + 1 } }

/-! ### The GPIO bank -/

/-- `GPIO.level[p]` (R27). -/
def lineLevel (s : State) (p : Pin) : Bool := s.gpio[p].level

/-- `GPIO.mode[p]` (R26). -/
def lineMode (s : State) (p : Pin) : PinMode := s.gpio[p].mode

/-- `GPIO.level[p] <- b`. -/
def setLevel (p : Pin) (b : Bool) (s : State) : State :=
  { s with gpio := s.gpio.set p.val { s.gpio[p] with level := b } p.isLt }

/-- `GPIO.mode[p] <- m`. -/
def setMode (p : Pin) (m : PinMode) (s : State) : State :=
  { s with gpio := s.gpio.set p.val { s.gpio[p] with mode := m } p.isLt }

/-- The level a pulse leaves on line `p`, which was at `old`: a line of `set` goes high, a line of `clr` low, the
clear written after the set; a line in neither mask keeps its level (R172, R77). -/
def maskedLevel (set clr : Mask) (p : Pin) (old : Bool) : Bool :=
  if clr.getLsbD p.val then false else if set.getLsbD p.val then true else old

/-- The GPIO bank after a pulse: every line at its masked level, all at one instant (R67). -/
def maskedBank (set clr : Mask) (bank : Vector Line 32) : Vector Line 32 :=
  bank.mapFinIdx fun p line h => { mode := line.mode, level := maskedLevel set clr ⟨p, h⟩ line.level }

/-- The masked write of a pulse to `GPIO.level` (R66, R77, R172). -/
def applyMasks (set clr : Mask) (s : State) : State := { s with gpio := maskedBank set clr s.gpio }

/-! ### The trace and a command's result -/

/-- `emit e`: appends an event to the trace (R11). -/
def emit (e : Event) (s : State) : State := { s with trace := s.trace ++ [e] }

/-- A command's result: the trace gains `Resp(cmd, code)` in the same atomic step (R75, R103). -/
def respond (cmd : Command) (code : Code) (s : State) : State := emit (.resp cmd code) s

/-- `raise E`, taking an error: the command stops with the state as the lines already executed made it, and `E` is
its result.  Nothing is saved, no mode changes and control goes nowhere, so there is nothing to return from
(R250, R253). -/
def raise (cmd : Command) (err : Code) (s : State) : State := respond cmd err s

/-- The result of a call on the internal port (R104). -/
def answer (r : CallResult) (s : State) : State := { s with callResult := some r }

/-- Goes on from an outcome that is a next state. -/
def andThen (o : Outcome) (f : State → State) : Outcome :=
  match o with
  | .next s => .next (f s)
  | .fault r => .fault r
  | .refused r => .refused r

/-! ### The environment's draws -/

/-- `draw engineInitOk`: the next answer listed, or the free value (D27). -/
def engineAnswer (s : State) : Bool :=
  match s.env.engineInitOk with
  | b :: _ => b
  | [] => Config.engineInitOk s.env.drawn

/-- The state after `draw engineInitOk`: the answer is used up. -/
def takeEngineAnswer (s : State) : State :=
  match s.env.engineInitOk with
  | _ :: bs => { s with env := { s.env with engineInitOk := bs } }
  | [] => { s with env := { s.env with drawn := s.env.drawn + 1 } }

/-- `draw pinModeOk(p)`: the next answer listed, or the parameter's default (D27). -/
def pinModeAnswer (s : State) : Bool :=
  match s.env.pinModeOk with
  | b :: _ => b
  | [] => Config.pinModeOk

/-- The state after `draw pinModeOk(p)`: the answer is used up. -/
def takePinModeAnswer (s : State) : State := { s with env := { s.env with pinModeOk := s.env.pinModeOk.tail } }

/-! ### The engine primitives -/

/-- ENGINE_INIT (R160): its result, `true` = Ok, and the state after it; "only when `ENG.up = 0`", so refused with the
engine up (R177). -/
def engineInit (s : State) : Except Refusal (Bool × State) :=
  if s.engUp then .error .engineMisuse
  else
    .ok
      (if engineAnswer s then (true, setWaveValid false (setBusy false (setEngUp true (takeEngineAnswer s))))
       else (false, takeEngineAnswer s))

/-- ENGINE_TERM (R161): nothing when the engine is down (assumption 16). -/
def engineTerm (s : State) : State :=
  if s.engUp then setWaveValid false (setBusy false (setEngUp false s)) else s

/-- SET_PIN_MODE(pin, Output) (R162): the line made an output or the error, and the state after it.  A failed call
changes nothing but uses up the draw it made. -/
def setPinMode (pin : Int) (s : State) : Except PinError Pin × State :=
  match pinOf pin with
  | none => (.error .invalidPin, s)
  | some p =>
    if pinModeAnswer s then (.ok p, setMode p .output (takePinModeAnswer s))
    else (.error .pinMode, takePinModeAnswer s)

/-- The effect of WRITE_PIN on a line (R163): the level, and the event `Pin(pin, level)`. -/
def drivePin (p : Pin) (level : Bool) (s : State) : State := emit (.pin p level) (setLevel p level s)

/-- WRITE_PIN(pin, level) (R163): refused on an invalid pin, on a line not in Output mode, and with the engine down
(R177, U9; assumption 15). -/
def writePin (pin : Int) (level : Bool) (s : State) : Outcome :=
  match pinOf pin with
  | none => .refused .engineMisuse
  | some p =>
    if s.engUp = true ∧ lineMode s p = .output then .next (drivePin p level s) else .refused .engineMisuse

/-- SUBMIT_WAVE(PS) (R164): requires `PS.valid = 1`, `ENG.up = 1`, `WAVE.valid = 0`, `SEQ.busy = 0`. -/
def submitWave (s : State) : Outcome :=
  if s.ps.valid = true ∧ s.engUp = true ∧ s.wave.valid = false ∧ s.seq.busy = false then
    .next { s with wave := { valid := true, entry := s.ps.entry } }
  else .refused .engineMisuse

/-- START_PLAYBACK(0, OneShot) (R166): requires `WAVE.valid = 1`, `SEQ.busy = 0`, and the engine up (U9,
assumption 15). -/
def startPlayback (s : State) : Outcome :=
  if s.engUp = true ∧ s.wave.valid = true ∧ s.seq.busy = false then
    .next { s with seq := { s.seq with idx := 0, busy := true } }
  else .refused .engineMisuse

/-- IS_BUSY() (R167): `SEQ.busy`, and 0 with the engine down. -/
def isBusy (s : State) : Bool := s.engUp && s.seq.busy

/-- DELETE_WAVE(0) (R168): requires `WAVE.valid = 1`, `SEQ.busy = 0`, and the engine up (U9,
assumption 15).  The records are not erased, they become unreadable. -/
def deleteWave (s : State) : Outcome :=
  if s.engUp = true ∧ s.wave.valid = true ∧ s.seq.busy = false then .next (setWaveValid false s)
  else .refused .engineMisuse

/-! ### The enable line -/

/-- EN_ENABLE and EN_DISABLE (R190, R191): WRITE_PIN(`x[1]`, `enabled ^ x[3]`); requires `CFG.valid = 1`. -/
def writeEn (enabled : Bool) (s : State) : Outcome :=
  match s.cfg with
  | none => .refused .engineMisuse
  | some c => writePin (c.enPin.val : Int) (physicalEn enabled c.invertEn) s

/-! ### The sequencer's record -/

/-- Applying one record (R172): the levels first, then the event, the hold, and the index. -/
def applyRecord (r : Pulse) (s : State) : State :=
  { emit (.pulse s.seq.idx r.set r.clr r.dur) (applyMasks r.set r.clr s) with
    seq := { s.seq with rem := r.dur.toNat, idx := s.seq.idx + 1 } }

end Sys2Proof.Machine
end

