-- ==== Sys2Proof/Machine/Encoder.lean ====
section
/-! DEFINITION. The pulse encoder, a pure function (R39, R130): `encode` (R140), the frame as a list of symbols (R110),
the start offsets (R143), and the level of TX at a time (R145, R175). -/

namespace Sys2Proof.Machine

/-- The ten records of one payload byte: START, eight data bits from bit 0, STOP (R140, R99). -/
def byteRecords (c : PinConfig) (b : Byte) : List Pulse :=
  mkPulse c .space 1 :: ((List.range 8).map fun j => mkPulse c (dataLevel b j) 1) ++ [mkPulse c .mark 2]

/-- BREAK, MAB, SC and the start code's STOP (R132 to R134, R139). -/
def preambleRecords (c : PinConfig) : List Pulse :=
  [mkPulse c .space 22, mkPulse c .mark 2, mkPulse c .space 9, mkPulse c .mark 2]

/-- `encode(BUF, N)` (R140). -/
def encodeRecords (c : PinConfig) (bytes : List Byte) : List Pulse :=
  preambleRecords c ++ bytes.flatMap (byteRecords c)

/-- The symbol of data bit `j` of byte `i`: DATA1 when the bit is 1, DATA0 when it is 0 (R138). -/
def dataSymbol (i : Nat) (b : Byte) (j : Fin 8) : Instr :=
  if b.getLsbD j.val then .symData1 i j else .symData0 i j

/-- `BYTE(b)`, the ten symbols of byte `i` (R110). -/
def byteSymbols (i : Nat) (b : Byte) : List Instr :=
  .symStart i :: (List.finRange 8).map (dataSymbol i b) ++ [.symStop (some i)]

/-- `BYTE(buf[i])` for the bytes from index `i` on (R110). -/
def bytesSymbols : Nat → List Byte → List Instr
  | _, [] => []
  | i, b :: bs => byteSymbols i b ++ bytesSymbols (i + 1) bs

/-- `FRAME(buf)` = PREAMBLE, STARTCODE, then `BYTE(buf[i])` for each `i` (R110). -/
def frameSymbols (bytes : List Byte) : List Instr :=
  [.symBreak, .symMab, .symSc, .symStop none] ++ bytesSymbols 0 bytes

/-- The units of a record's hold summed over a list of records, in microseconds (R141). -/
def totalMicros : List Pulse → Nat
  | [] => 0
  | r :: rs => r.dur.toNat + totalMicros rs

/-- `off(k) · U`, the microseconds from the application of record 0 to that of record `k` (R143). -/
def offsetMicros (rs : List Pulse) (k : Nat) : Nat := totalMicros (rs.take k)

/-- The physical level a record drives line `p` to, `old` when it names the line in neither mask (R172). -/
def recordLevel (r : Pulse) (p : Pin) (old : Bool) : Bool := maskedLevel r.set r.clr p old

/-- The physical level of line `p` at time `t` microseconds after record 0 is applied, `old` being its level
before: record `k`'s level lasts from its application until record `k + 1` is applied, and the last one's from then
on (R172, R175). -/
def levelAt (p : Pin) : List Pulse → Nat → Bool → Bool
  | [], _, old => old
  | r :: rs, t, old => if t < r.dur.toNat then recordLevel r p old else levelAt p rs (t - r.dur.toNat) (recordLevel r p old)

/-- The wire-level view of a sequence on line `p`: neighbouring records of equal level are one continuous level, as
pairs of level and microseconds (R175). -/
def wireRuns (p : Pin) : List Pulse → Bool → List (Bool × Nat)
  | [], _ => []
  | r :: rs, old =>
    match wireRuns p rs (recordLevel r p old) with
    | [] => [(recordLevel r p old, r.dur.toNat)]
    | (l, d) :: runs =>
      if l = recordLevel r p old then (l, r.dur.toNat + d) :: runs
      else (recordLevel r p old, r.dur.toNat) :: (l, d) :: runs

end Sys2Proof.Machine
end

