-- ==== Sys2Proof/Machine/Commands.lean ====
section
/-! DEFINITION. The host commands INIT (R201), TRANSMIT (R210) and CLOSE (R230).  Each is one atomic step that ends with
its result in the trace (R75). -/

namespace Sys2Proof.Machine

/-- INIT after both pins have been made outputs: the four registers are written, the configuration becomes valid, and
EN is driven to its inactive level (R201). -/
def configure (tx en : Pin) (invertTx invertEn : Bool) (s : State) : State :=
  drivePin en (physicalEn false invertEn)
    { s with cfg := some { txPin := tx, enPin := en, invertTx := invertTx, invertEn := invertEn } }

/-- The error INIT raises for a failed SET_PIN_MODE (R201, R244, R245). -/
def pinCode : PinError → Code
  | .invalidPin => .invalidPinError
  | .pinMode => .pinModeError

/-- INIT's pin-mode step for one pin: the line and the state after SET_PIN_MODE, or the error and the state after
the roll-back (R201, R251). -/
def initPin (pin : Int) (s : State) : Except Code Pin × State :=
  match setPinMode pin s with
  | (.ok p, s') => (.ok p, s')
  | (.error e, s') => (.error (pinCode e), engineTerm s')

/-- INIT from the line where the engine is up: the comparison of the pins, the pin modes, TX first, and the
configuration (R201, R249). -/
def initPins (txPin enPin : Int) (invertTx invertEn : Bool) (s : State) : Code × State :=
  if txPin = enPin then (.samePinError, engineTerm s)
  else
    match initPin txPin s with
    | (.error e, s1) => (e, s1)
    | (.ok tx, s1) =>
      match initPin enPin s1 with
      | (.error e, s2) => (e, s2)
      | (.ok en, s2) => (.ok, configure tx en invertTx invertEn s2)

/-- INIT's result and the state after it, the response apart (R201).  Unconfigured with the engine up, a state R45 a rules
out, its ENGINE_INIT is a call out of order (R177; assumption 16). -/
def initResult (txPin enPin : Int) (invertTx invertEn : Bool) (s : State) : Except Refusal (Code × State) :=
  if cfgValid s then .ok (.alreadyInitialized, s)
  else
    match engineInit s with
    | .ok r => .ok (if r.1 then initPins txPin enPin invertTx invertEn r.2 else (.hardwareInitFailed, r.2))
    | .error r => .error r

/-- INIT (R201 to R203). -/
def execInit (txPin enPin : Int) (invertTx invertEn : Bool) (s : State) : Outcome :=
  match initResult txPin enPin invertTx invertEn s with
  | .ok r => .next (respond .init r.1 r.2)
  | .error r => .refused r

/-- Whether a payload of `n` bytes fits the pulse memories (R8). -/
def payloadFits (n : Nat) : Bool :=
  match Config.nMax with
  | none => true
  | some m => decide (n ≤ m)

/-- The acceptance of a TRANSMIT: the payload is read and encoded, the length latched, the worker placed at W_ENABLE
(R210, R69). -/
def accept (c : PinConfig) (n : Nat) (s : State) : State :=
  { s with
    ps := { valid := true, entry := encodeRecords c (payload s n) }
    tc := { s.tc with n := n, wstep := .wEnable, inflight := true } }

/-- TRANSMIT (R210). -/
def execTransmit (n : Nat) (s : State) : Outcome :=
  match s.cfg with
  | none => .next (raise .transmit .notInitialized s)
  | some c =>
    if s.tc.inflight then .next (raise .transmit .busy s)
    else if payloadFits n then .next (respond .transmit .ok (accept c n s))
    else .refused .payloadTooLong

/-- CLOSE (R230): the fault of R233 while a transmission is in flight. -/
def execClose (s : State) : Outcome :=
  if s.tc.inflight then .fault .closeInFlight
  else .next (respond .close .ok (engineTerm { s with cfg := none }))

end Sys2Proof.Machine
end

