-- ==== Sys2Proof/Machine/EnableLine.lean ====
section
/-! DEFINITION. The enable-line operations as instructions (R190, R191). -/

namespace Sys2Proof.Machine

/-- EN_ENABLE (R190): EN to its active level. -/
def execEnEnable (s : State) : Outcome := writeEn true s

/-- EN_DISABLE (R191): EN to its inactive level. -/
def execEnDisable (s : State) : Outcome := writeEn false s

end Sys2Proof.Machine
end

