-- ==== Sys2Proof/Machine/Engine.lean ====
section
/-! DEFINITION. The engine primitives as instructions (R160 to R168): each runs its primitive and leaves the result, where
the call returns one, in `callResult` (R104). -/

namespace Sys2Proof.Machine

/-- ENGINE_INIT (R160), refused with the engine up (R177). -/
def execEngineInit (s : State) : Outcome :=
  match engineInit s with
  | .ok r => .next (answer (if r.1 then .ok else .engineErr) r.2)
  | .error r => .refused r

/-- ENGINE_TERM (R161). -/
def execEngineTerm (s : State) : Outcome := .next (engineTerm s)

/-- The answer of SET_PIN_MODE (R162). -/
def pinAnswer : Except PinError Pin → CallResult
  | .ok _ => .ok
  | .error e => .pinErr e

/-- SET_PIN_MODE (R162), refused with the engine down (R177, U9; assumption 15). -/
def execSetPinMode (pin : Int) (s : State) : Outcome :=
  if s.engUp then .next (answer (pinAnswer (setPinMode pin s).1) (setPinMode pin s).2) else .refused .engineMisuse

/-- WRITE_PIN (R163): the result is always Ok. -/
def execWritePin (pin : Int) (level : Bool) (s : State) : Outcome := andThen (writePin pin level s) (answer .ok)

/-- SUBMIT_WAVE (R164): answers the handle, always 0 (R165). -/
def execSubmitWave (s : State) : Outcome := andThen (submitWave s) (answer .handle)

/-- START_PLAYBACK (R166). -/
def execStartPlayback (s : State) : Outcome := startPlayback s

/-- IS_BUSY (R167). -/
def execIsBusy (s : State) : Outcome := .next (answer (.busy (isBusy s)) s)

/-- DELETE_WAVE (R168). -/
def execDeleteWave (s : State) : Outcome := deleteWave s

end Sys2Proof.Machine
end

