-- ==== Sys2Proof/Machine/Pulses.lean ====
section
/-! DEFINITION. The two pulse forms (R170, R171), instances of the sequencer's application of a record (R172).  A record
the encoder never makes is refused (R106, R174). -/

namespace Sys2Proof.Machine

/-- Applies a record unless it is reserved under the configuration (R174; assumption 25). -/
def playRecord (r : Pulse) (s : State) : Outcome :=
  if reservedRecord s.cfg r then .refused .reservedPulse else .next (applyRecord r s)

/-- PULSE.HI (R170). -/
def execPulseHi (set : Mask) (dur : Micros) (s : State) : Outcome :=
  playRecord { set := set, clr := 0, dur := dur } s

/-- PULSE.LO (R171). -/
def execPulseLo (clr : Mask) (dur : Micros) (s : State) : Outcome :=
  playRecord { set := 0, clr := clr, dur := dur } s

end Sys2Proof.Machine
end

