-- ==== Sys2Proof/Machine/Symbols.lean ====
section
/-! DEFINITION. The seven symbols (R132 to R139): each writes its record at its index in PS. -/

namespace Sys2Proof.Machine

/-- `PS.entry[k] <- mkPulse(L, n)` (R131), on the TX pin and polarity the registers hold (assumptions 12
and 24).  No bound of `k` is checked: `0 <= i < N` (R135 to R139) and the `4 + 10·N_MAX` records of PS hold of every symbol
`encode` makes, and for a symbol run alone that goes beyond them PS grows (the model's choice, assumption 24). -/
def putSymbol (k : Nat) (level : Logical) (units : Nat) (s : State) : Outcome :=
  .next (setPsRecord k (mkPulse (readConfig s) level units) (afterReadConfig s))

/-- BREAK (R132). -/
def execSymBreak (s : State) : Outcome := putSymbol 0 .space 22 s

/-- MAB (R133). -/
def execSymMab (s : State) : Outcome := putSymbol 1 .mark 2 s

/-- SC, the merged start code (R134). -/
def execSymSc (s : State) : Outcome := putSymbol 2 .space 9 s

/-- START of byte `i` (R135). -/
def execSymStart (i : Nat) (s : State) : Outcome := putSymbol (4 + 10 * i) .space 1 s

/-- DATA0, data bit `j` of byte `i` with value 0 (R136). -/
def execSymData0 (i : Nat) (j : Fin 8) (s : State) : Outcome := putSymbol (4 + 10 * i + 1 + j.val) .space 1 s

/-- DATA1, data bit `j` of byte `i` with value 1 (R137). -/
def execSymData1 (i : Nat) (j : Fin 8) (s : State) : Outcome := putSymbol (4 + 10 * i + 1 + j.val) .mark 1 s

/-- STOP, of the start code or of byte `i` (R139). -/
def execSymStop (i : Option Nat) (s : State) : Outcome :=
  match i with
  | none => putSymbol 3 .mark 2 s
  | some i => putSymbol (4 + 10 * i + 9) .mark 2 s

end Sys2Proof.Machine
end

