-- ==== Sys2Proof/Machine/Dispatch.lean ====
section
/-! DEFINITION. The meaning of every operation of R100: one direct call for each constructor of `Instr`. -/

namespace Sys2Proof.Machine

def exec (i : Instr) (s : State) : Host.Outcome State Fault Refusal :=
  match i with
  | .init txPin enPin invertTx invertEn => Sys2Proof.Machine.execInit txPin enPin invertTx invertEn s
  | .transmit n => Sys2Proof.Machine.execTransmit n s
  | .close => Sys2Proof.Machine.execClose s
  | .engineInit => Sys2Proof.Machine.execEngineInit s
  | .engineTerm => Sys2Proof.Machine.execEngineTerm s
  | .setPinMode pin => Sys2Proof.Machine.execSetPinMode pin s
  | .writePin pin level => Sys2Proof.Machine.execWritePin pin level s
  | .submitWave => Sys2Proof.Machine.execSubmitWave s
  | .startPlayback => Sys2Proof.Machine.execStartPlayback s
  | .isBusy => Sys2Proof.Machine.execIsBusy s
  | .deleteWave => Sys2Proof.Machine.execDeleteWave s
  | .enEnable => Sys2Proof.Machine.execEnEnable s
  | .enDisable => Sys2Proof.Machine.execEnDisable s
  | .pulseHi set dur => Sys2Proof.Machine.execPulseHi set dur s
  | .pulseLo clr dur => Sys2Proof.Machine.execPulseLo clr dur s
  | .symBreak => Sys2Proof.Machine.execSymBreak s
  | .symMab => Sys2Proof.Machine.execSymMab s
  | .symSc => Sys2Proof.Machine.execSymSc s
  | .symStart idx => Sys2Proof.Machine.execSymStart idx s
  | .symData0 idx j => Sys2Proof.Machine.execSymData0 idx j s
  | .symData1 idx j => Sys2Proof.Machine.execSymData1 idx j s
  | .symStop idx => Sys2Proof.Machine.execSymStop idx s

end Sys2Proof.Machine
end

