-- ==== Sys2Proof/Machine/Sequencer.lean ====
section
/-! DEFINITION. The GPIO transition sequencer's own steps (R172, R173), which fetch records from WAVE at SEQ.idx, the
block's program counter (R31, R63). -/

namespace Sys2Proof.Machine

/-- The record at SEQ.idx, `none` when the waveform is invalid or the index is past its end (R37, R65). -/
def fetchRecord (s : State) : Option Pulse := if s.wave.valid then s.wave.entry[s.seq.idx]? else none

/-- Whether the sequencer has a step: it is playing, the hold of the last record applied has elapsed, and the index is
not past the end (R172, R173). -/
def seqEnabled (s : State) : Bool :=
  s.seq.busy && s.seq.rem == 0 && decide (s.seq.idx ≤ s.wave.entry.length)

/-- SEQ_FINISH (R173). -/
def seqFinish (s : State) : State := emit .idle (setBusy false s)

/-- Runs the record fetched: it is decoded to one of the two forms and executed (R170 to R172); a reserved record is
refused (R174). -/
def runRecord (r : Pulse) (s : State) : Outcome :=
  match decodeRecord r with
  | .ok i => exec i s
  | .error _ => .refused .reservedPulse

/-- The sequencer's step when it has one: SEQ_STEP on the record at SEQ.idx, or SEQ_FINISH when SEQ.idx is at the end
of the waveform (R172, R173). -/
def seqStep (s : State) : Outcome :=
  match fetchRecord s with
  | some r => runRecord r s
  | none => if s.wave.valid then .next (seqFinish s) else .refused .engineMisuse

end Sys2Proof.Machine
end

