-- ==== Sys2Proof/Machine/Timing.lean ====
section
/-! DEFINITION. Time (R12, R32, R260, R296): the sequencer's hold timer and the completion detector's timer count down
together, and while a record is held time cannot pass the moment its hold ends, since "the sequencer adds no time
between records" (R297). -/

namespace Sys2Proof.Machine

/-- How much of `micros` can pass: once record 0 has been applied, no more than what is left of the current hold
(R73 b, R73 c, R297); before that the engine's start latency is unbounded here (R300; assumption 17). -/
def elapsible (micros : Nat) (s : State) : Nat :=
  if s.seq.busy && s.seq.idx != 0 then min micros s.seq.rem else micros

/-- Time passes: `SEQ.rem` and the detector's timer count down. -/
def elapse (micros : Nat) (s : State) : State :=
  { s with
    now := s.now + elapsible micros s
    seq := { s.seq with rem := s.seq.rem - elapsible micros s }
    tc := { s.tc with look := s.tc.look - elapsible micros s } }

/-- The microseconds until the next timer that is running ends, 0 when none is. -/
def nextDeadline (s : State) : Nat :=
  let hold := if s.seq.busy then s.seq.rem else 0
  let look := if s.tc.inflight && s.tc.wstep == .wWait then s.tc.look else 0
  if hold = 0 then look else if look = 0 then hold else min hold look

end Sys2Proof.Machine
end

