-- ==== Sys2Proof/Machine/Worker.lean ====
section
/-! DEFINITION. The worker's eight steps (R215 to R224) and the completion detector's two-phase wait (R298, R299). -/

namespace Sys2Proof.Machine

/-- `TC.wstep <- w` (R35). -/
def setWstep (w : WorkerStep) (s : State) : State := { s with tc := { s.tc with wstep := w } }

/-- Starts the completion detector's timer: its next look at IS_BUSY comes after `units · U` microseconds (R298). -/
def setLook (units : Nat) (s : State) : State := { s with tc := { s.tc with look := units * Config.u } }

/-- W_ENABLE (R216). -/
def workEnable (s : State) : Outcome := andThen (writeEn true s) (setWstep .wSubmit)

/-- W_SUBMIT (R217). -/
def workSubmit (s : State) : Outcome := andThen (submitWave s) (setWstep .wStart)

/-- W_START (R218), from which the detector's first sleep `W0(N) · U` runs (R298, R299). -/
def workStart (s : State) : Outcome :=
  andThen (startPlayback s) fun t => setWstep .wWait (setLook (Config.w0 s.tc.n) t)

/-- A look of the completion detector: with IS_BUSY() = 0 it is W_WAIT, which changes nothing but `TC.wstep` (R219);
otherwise the detector sleeps `Q · U` more (R298; assumption 18). -/
def workWait (s : State) : Outcome :=
  if isBusy s then .next (setLook Config.q s) else .next (setWstep .wDisable s)

/-- W_DISABLE (R220). -/
def workDisable (s : State) : Outcome := andThen (writeEn false s) (setWstep .wDelete)

/-- W_DELETE (R221). -/
def workDelete (s : State) : Outcome := andThen (deleteWave s) (setWstep .wFree)

/-- W_FREE (R222). -/
def workFree (s : State) : Outcome := .next (setWstep .wDone (setPsValid false s))

/-- W_DONE (R224): the event DONE, and `TC.inflight` falls in the same step. -/
def workDone (s : State) : Outcome := .next (emit .done (setInflight false s))

/-- Whether the worker has a step: a transmission is in flight and, at W_WAIT, the detector's timer has run out
(R215, R219, R298). -/
def workerEnabled (s : State) : Bool :=
  s.tc.inflight && (s.tc.wstep != .wWait || s.tc.look == 0)

/-- The worker's step when it has one, the one `TC.wstep` names (R215, R72). -/
def workerStep (s : State) : Outcome :=
  match s.tc.wstep with
  | .wEnable => workEnable s
  | .wSubmit => workSubmit s
  | .wStart => workStart s
  | .wWait => workWait s
  | .wDisable => workDisable s
  | .wDelete => workDelete s
  | .wFree => workFree s
  | .wDone => workDone s

end Sys2Proof.Machine
end

