-- ==== Sys2Proof/Machine/Turns.lean ====
section
/-! DEFINITION. The interleaving (R10, R71): what each turn does, and what the block does by itself when no turn is listed;
and how a word is put where the next step fetches it. -/

namespace Sys2Proof.Machine

/-- The refusal an undecodable form meets. -/
def refusalOf : DecodeError → Refusal
  | .reservedCommand => .reservedCommand
  | .reservedCall => .reservedCall
  | .reservedPulse => .reservedPulse
  | .reservedSymbol => .reservedSymbol

/-- Decodes a raw form and runs the operation it names. -/
def runRaw (raw : Raw) (s : State) : Outcome :=
  match decode raw with
  | .ok i => exec i s
  | .error e => .refused (refusalOf e)

/-- The host's turn: the bytes that follow the command word are in BUF, and the command runs as one atomic step
(R75, R101; assumption 20). -/
def runHost (word : BitVec 32) (bytes : List Byte) (s : State) : Outcome :=
  runRaw (.cmd word) { s with buf := Memory.place s.buf 0 bytes }

/-- The sequencer's turn: its step if it has one, otherwise nothing. -/
def runSequencer (s : State) : Outcome := if seqEnabled s then seqStep s else .next s

/-- The worker's turn: its step if it has one, otherwise nothing. -/
def runWorker (s : State) : Outcome := if workerEnabled s then workerStep s else .next s

/-- What one turn of the interleaving does (R71). -/
def runTurn (t : Turn) (s : State) : Outcome :=
  match t with
  | .host word bytes => runHost word bytes s
  | .hostStore i b => .next { s with buf := Memory.write s.buf i b }
  | .worker => runWorker s
  | .sequencer => runSequencer s
  | .elapse micros => .next (elapse micros s)
  | .internal raw => runRaw raw s

/-- What the block does by itself: the sequencer's step if it has one, else the worker's if it has one, else time
passes to the next timer's end; with no timer running nothing changes, since the block "takes no step until the host
issues a command" (R281, R80; assumptions 2 and 17). -/
def blockStep (s : State) : Outcome :=
  if seqEnabled s then seqStep s
  else if workerEnabled s then workerStep s
  else .next (elapse (nextDeadline s) s)

/-- One step of the machine: the next turn listed, or the block by itself. -/
def machineStep (s : State) : Outcome :=
  match s.agenda with
  | [] => blockStep s
  | t :: rest => runTurn t { s with agenda := rest }

/-- BUF with its first `n` bytes zero. -/
def zeroPayload (n : Nat) (m : Memory) : Memory := m.filter fun c => decide (n ≤ c.1)

/-- The state whose next step runs a raw form.  A command word is the host's next turn, with a payload of zero bytes;
a pulse record stands in WAVE at SEQ.idx with the sequencer playing and no hold left, and the next turn is the
sequencer's; a call or a symbol is on the internal port (assumption 14). -/
def placeRaw (raw : Raw) (s : State) : State :=
  match raw with
  | .cmd word =>
    { s with
      agenda := .host word [] :: s.agenda
      buf := if cmdField word 0 2 = 1 then zeroPayload (cmdField word 2 30) s.buf else s.buf }
  | .pulse record =>
    { s with
      agenda := .sequencer :: s.agenda
      wave := { valid := true, entry := writeRecord 0 s.wave.entry s.seq.idx (wordPulse record) }
      seq := { s.seq with busy := true, rem := 0 } }
  | .call sel pin level => { s with agenda := .internal (.call sel pin level) :: s.agenda }
  | .symbol pattern k => { s with agenda := .internal (.symbol pattern k) :: s.agenda }

/-- The state whose next step runs the instruction of a row's bits; the state itself when they are no row's. -/
def placeTableWord (s : State) (nbits w : Nat) : State :=
  match tableRaw nbits w with
  | some raw => placeRaw raw s
  | none => s

end Sys2Proof.Machine
end

