-- ==== Sys2Proof/WellFormed.lean ====
section
/-! DEFINITION. Which operations have an encoding: the operand ranges of formats CMD and PULSE (R101, R102, R106).
An operation that is not well formed may still have a meaning in the abstract model: `init` of a negative pin does (R102). -/

namespace Sys2Proof

/-- Whether a pin number fits the 8-bit fields of format CMD (R102). -/
def pinEncodable (p : Int) : Bool := decide (0 ≤ p) && decide (p ≤ 255)

/-- Whether the operation can be written in its format: INIT's pins fit 8 bits and TRANSMIT's length 30 bits
(R101, R102); a pulse record is not one of the reserved kinds of R106 that its own bits show.  The calls have typed
operands and no bits (R104), and every symbol has a pattern and an index (R95, R96). -/
def Instr.wellFormed : Instr → Bool
  | .init txPin enPin _ _ => pinEncodable txPin && pinEncodable enPin
  | .transmit n => decide (n < 2 ^ 30)
  | .pulseHi set dur => oneLine set && dur != 0
  | .pulseLo clr dur => oneLine clr && dur != 0
  | .close => true
  | .engineInit => true
  | .engineTerm => true
  | .setPinMode _ => true
  | .writePin _ _ => true
  | .submitWave => true
  | .startPlayback => true
  | .isBusy => true
  | .deleteWave => true
  | .enEnable => true
  | .enDisable => true
  | .symBreak => true
  | .symMab => true
  | .symSc => true
  | .symStart _ => true
  | .symData0 _ _ => true
  | .symData1 _ _ => true
  | .symStop _ => true

end Sys2Proof
end

