-- ==== Sys2Proof/Safety.lean ====
section
/-! DEFINITION. What counts as a good state and a polite host, in the terms claims use: the invariants of
spec/10_state.md R22 and R45, and what a host must not do (R8, R105, R291). -/

namespace Sys2Proof.Machine

/-! ### The invariants -/

/-- EN is to be active: from W_ENABLE done to W_DISABLE done of a transmission in flight (R194). -/
def enActive (s : State) : Bool :=
  s.tc.inflight &&
    match s.tc.wstep with
    | .wSubmit => true
    | .wStart => true
    | .wWait => true
    | .wDisable => true
    | .wEnable => false
    | .wDelete => false
    | .wFree => false
    | .wDone => false

/-- The worker is between W_SUBMIT done and W_DELETE done, where the engine holds a waveform (R45 d). -/
def waveHeld (s : State) : Bool :=
  s.tc.inflight &&
    match s.tc.wstep with
    | .wStart => true
    | .wWait => true
    | .wDisable => true
    | .wDelete => true
    | .wEnable => false
    | .wSubmit => false
    | .wFree => false
    | .wDone => false

/-- `ENG.up = CFG.valid` (R25, R45 a). -/
abbrev EngineMirrorsConfig (s : State) : Prop := s.engUp = cfgValid s

/-- `x[0] != x[1]` in a valid configuration (R22). -/
abbrev PinsDistinct (s : State) : Prop := ∀ c ∈ s.cfg, c.txPin ≠ c.enPin

/-- `TC.inflight = 1` implies `CFG.valid = 1` (R45 b). -/
abbrev InflightConfigured (s : State) : Prop := s.tc.inflight = true → cfgValid s = true

/-- `SEQ.busy = 1` implies `TC.inflight = 1`, `WAVE.valid = 1` and `TC.wstep = W_WAIT` (R45 c). -/
abbrev BusyOnlyInWait (s : State) : Prop :=
  s.seq.busy = true → s.tc.inflight = true ∧ s.wave.valid = true ∧ s.tc.wstep = .wWait

/-- `WAVE.valid = 1` exactly from W_SUBMIT to W_DELETE (R45 d, R217, R221). -/
abbrev WaveValidWhenHeld (s : State) : Prop := s.wave.valid = waveHeld s

/-- `PS.valid = 1` exactly when `TC.inflight = 1` and `TC.wstep` is not `W_DONE` (R45 e). -/
abbrev PsValidUntilFreed (s : State) : Prop := s.ps.valid = (s.tc.inflight && s.tc.wstep != .wDone)

/-- `CFG.valid = 1` implies both pins are outputs (R45 f). -/
abbrev PinsAreOutputs (s : State) : Prop :=
  ∀ c ∈ s.cfg, lineMode s c.txPin = .output ∧ lineMode s c.enPin = .output

/-- EN is at its active level exactly from W_ENABLE to W_DISABLE of a transmission, and at its inactive level
otherwise (R45 g, R194). -/
abbrev EnFollowsWorker (s : State) : Prop := ∀ c ∈ s.cfg, lineLevel s c.enPin = physicalEn (enActive s) c.invertEn

/-- A pulse memory that is valid holds `4 + 10·N` records, each of the two forms of R91 on `x[0]` (R28, R91, R98). -/
abbrev HoldsFrame (s : State) (m : PulseStore) : Prop :=
  m.valid = true → m.entry.length = 4 + 10 * s.tc.n ∧ ∀ r ∈ m.entry, reservedRecord s.cfg r = false

/-- A pulse memory that is valid holds the encoding of some payload of the length in flight: "only SUBMIT_WAVE writes
`WAVE`, only from `PS`, and only `encode` writes `PS`" (R174). -/
abbrev FramesAreEncodings (s : State) : Prop :=
  ∀ c ∈ s.cfg, ∀ m ∈ [s.ps, s.wave], m.valid = true →
    ∃ bytes : List Byte, bytes.length = s.tc.n ∧ m.entry = encodeRecords c bytes

/-- `SEQ.idx <= WAVE.len` while playing (R31). -/
abbrev IndexInRange (s : State) : Prop := s.seq.busy = true → s.seq.idx ≤ s.wave.entry.length

/-- No hold is left when the sequencer is idle (R32, R173). -/
abbrev NoHoldWhenIdle (s : State) : Prop := s.seq.busy = false → s.seq.rem = 0

/-- The payload in flight fits the pulse memories (R8, R210). -/
abbrev PayloadAdmitted (s : State) : Prop := s.tc.inflight = true → payloadFits s.tc.n = true

/-- A turn is not a call put on the internal port from outside: "the engine primitives are not reachable by the host at
all" (R259). -/
def Turn.external : Turn → Bool
  | .host _ _ => true
  | .hostStore _ _ => true
  | .worker => true
  | .sequencer => true
  | .elapse _ => true
  | .internal _ => false

/-- Every turn to come is one the block's surroundings can cause (R10, R259). -/
abbrev ExternalOnly (s : State) : Prop := s.agenda.all Turn.external = true

/-- The invariants of the block (R22, R45, R31, R194), and BUF in canonical form. -/
abbrev Inv (s : State) : Prop :=
  EngineMirrorsConfig s ∧ PinsDistinct s ∧ InflightConfigured s ∧ BusyOnlyInWait s ∧ WaveValidWhenHeld s ∧
  PsValidUntilFreed s ∧ PinsAreOutputs s ∧ EnFollowsWorker s ∧ HoldsFrame s s.ps ∧ HoldsFrame s s.wave ∧
  IndexInRange s ∧ NoHoldWhenIdle s ∧ PayloadAdmitted s ∧ Memory.wf s.buf = true ∧ ExternalOnly s

/-! ### The host's part -/

/-- The next turn is a CLOSE while a transmission is in flight, which the host must not issue (R291). -/
def closesInFlight (s : State) : Prop :=
  s.tc.inflight = true ∧ ∃ bytes rest, s.agenda = .host (0x00000002#32) bytes :: rest

/-- The next turn is a command word the spec gives no meaning: a reserved word (R105), or a TRANSMIT of more than
`N_MAX` bytes (R8). -/
def badCommand (s : State) : Prop :=
  ∃ word bytes rest, s.agenda = .host word bytes :: rest ∧
    (decode (.cmd word) = .error .reservedCommand ∨ ∃ n, decode (.cmd word) = .ok (.transmit n) ∧ payloadFits n = false)

/-! ### What an operation may change -/

/-- The groups of R100's table. -/
inductive OpGroup where
  | hostCommand
  | enginePrimitive
  | enableLine
  | pulseForm
  | symbol
deriving DecidableEq, Repr

/-- The group of an operation (R100). -/
def opGroup : Instr → OpGroup
  | .init _ _ _ _ => .hostCommand
  | .transmit _ => .hostCommand
  | .close => .hostCommand
  | .engineInit => .enginePrimitive
  | .engineTerm => .enginePrimitive
  | .setPinMode _ => .enginePrimitive
  | .writePin _ _ => .enginePrimitive
  | .submitWave => .enginePrimitive
  | .startPlayback => .enginePrimitive
  | .isBusy => .enginePrimitive
  | .deleteWave => .enginePrimitive
  | .enEnable => .enableLine
  | .enDisable => .enableLine
  | .pulseHi _ _ => .pulseForm
  | .pulseLo _ _ => .pulseForm
  | .symBreak => .symbol
  | .symMab => .symbol
  | .symSc => .symbol
  | .symStart _ => .symbol
  | .symData0 _ _ => .symbol
  | .symData1 _ _ => .symbol
  | .symStop _ => .symbol

/-- Operation `i` completes at `s` and its whole effect is that record `k` of PS becomes `r` (R132 to R139). -/
def WritesPsRecord (i : Instr) (k : Nat) (r : Pulse) (s : State) : Prop :=
  ∃ t, exec i s = .next t ∧ readRecord t.ps.entry k = r ∧
    (∀ m, m ≠ k → readRecord t.ps.entry m = readRecord s.ps.entry m) ∧
    t = { s with ps := { s.ps with entry := t.ps.entry } }

/-- Line `p` of `t` is at level `b`, and every other line and every mode is as in `s`. -/
def DrivesOnly (p : Pin) (b : Bool) (s t : State) : Prop :=
  ∀ q, lineLevel t q = (if q = p then b else lineLevel s q) ∧ lineMode t q = lineMode s q

/-! ### Runs -/

/-- Runs operations one after another, stopping at the first that does not answer a next state. -/
def execAll : List Instr → State → Outcome
  | [], s => .next s
  | i :: is, s =>
    match exec i s with
    | .next t => execAll is t
    | .fault r => .fault r
    | .refused r => .refused r

/-- The events of playing a list of records from index `k` on (R73 b, R175). -/
def pulseEvents : Nat → List Pulse → List Event
  | _, [] => []
  | k, r :: rs => .pulse k r.set r.clr r.dur :: pulseEvents (k + 1) rs

/-- The trace of one accepted transmission from its response on, with nothing else going on (R225). -/
def transmissionTrace (c : PinConfig) (bytes : List Byte) : List Event :=
  [.resp .transmit .ok, .pin c.enPin (physicalEn true c.invertEn)] ++ pulseEvents 0 (encodeRecords c bytes) ++
    [.idle, .pin c.enPin (physicalEn false c.invertEn), .done]

/-- The number of DONE events in a trace (R256). -/
def doneCount (es : List Event) : Nat := es.count .done

/-- The number of accepted TRANSMITs in a trace (R210). -/
def acceptedCount (es : List Event) : Nat := es.count (.resp .transmit .ok)

end Sys2Proof.Machine
end

