-- ==== Sys2Proof/Certificates/Slice0/Obligations.lean ====
section
/-! DEFINITION. The statements for the provers.  Each says which rule of spec/ it formalises. -/

open Sys2Proof Sys2Proof.Machine

/-! ### Encodings -/

/-- R90, R95, R96, R101, R104: decoding the encoding of a well-formed operation gives it back, with every operand at
every value its format admits. -/
def Obligations.DecodeEncodeRoundTrip : Prop :=
  ∀ i : Instr, i.wellFormed = true → decode (encode i) = .ok i

/-- R90, R95, R101, R104: every raw form that decodes is the encoding of what it decodes to, up to the operands a call
does not take (SET_PIN_MODE takes the pin and WRITE_PIN both), and what a command word or a record decodes to is well
formed. -/
def Obligations.DecodedFormReencodes : Prop :=
  (∀ w i, decode (.cmd w) = .ok i → i.wellFormed = true ∧ encode i = .cmd w) ∧
  (∀ w i, decode (.pulse w) = .ok i → i.wellFormed = true ∧ encode i = .pulse w) ∧
  (∀ pattern k i, decode (.symbol pattern k) = .ok i → encode i = .symbol pattern k) ∧
  (∀ sel pin level i, decode (.call sel pin level) = .ok i → ∃ pin' level', encode i = .call sel pin' level' ∧
    ((∃ p, i = .setPinMode p) → pin' = pin) ∧ ((∃ p b, i = .writePin p b) → pin' = pin ∧ level' = level))

/-- R95, R101, R104, and the words of spec/95_test_vectors.md V13 and S1. -/
def Obligations.WrittenOutWordsDecode : Prop :=
  decode (.cmd 0x00001814#32) = .ok (.init 5 6 false false) ∧
  decode (.cmd 0x00086C44#32) = .ok (.init 17 27 false true) ∧
  decode (.cmd 0x00000801#32) = .ok (.transmit 512) ∧
  decode (.cmd 0x00000002#32) = .ok .close ∧
  decode (.call 0b0101#4 0 false) = .ok .startPlayback ∧
  decode (.call 0b1001#4 0 false) = .ok .enDisable ∧
  decode (.pulse 0x000000000000002000000058#96) = .ok (.pulseLo 0x00000020#32 88#32) ∧
  decode (.pulse 0x000000200000000000000008#96) = .ok (.pulseHi 0x00000020#32 8#32) ∧
  decode (.symbol 0b010110#6 0) = .ok .symBreak ∧
  decode (.symbol 0b100001#6 5) = .ok (.symData1 0 0)

/-- R105: exactly these command words are reserved, and the block refuses them. -/
def Obligations.ReservedCommandWordsRefused : Prop :=
  (∀ w : BitVec 32, decode (.cmd w) = .error .reservedCommand ↔
    (w.extractLsb' 0 2 = 3#2 ∨ (w.extractLsb' 0 2 = 0#2 ∧ w.extractLsb' 20 12 ≠ 0#12) ∨
      (w.extractLsb' 0 2 = 2#2 ∧ w.extractLsb' 2 30 ≠ 0#30))) ∧
  (∀ (s : State) w bytes rest, s.agenda = .host w bytes :: rest → decode (.cmd w) = .error .reservedCommand →
    step s = .refused .reservedCommand)

/-- R101, R102: the operands of a command word that is not reserved are read from these bits. -/
def Obligations.CommandWordFields : Prop :=
  ∀ w : BitVec 32,
    (w.extractLsb' 0 2 = 0#2 → w.extractLsb' 20 12 = 0#12 →
      decode (.cmd w) = .ok (.init (w.extractLsb' 2 8).toNat (w.extractLsb' 10 8).toNat (w.getLsbD 18) (w.getLsbD 19))) ∧
    (w.extractLsb' 0 2 = 1#2 → decode (.cmd w) = .ok (.transmit (w.extractLsb' 2 30).toNat)) ∧
    (w.extractLsb' 0 2 = 2#2 → w.extractLsb' 2 30 = 0#30 → decode (.cmd w) = .ok .close)

/-- R91, R106: a record decodes to PULSE.HI or PULSE.LO exactly when it has that form, with one line in its mask and
`dur > 0`; every other record is reserved. -/
def Obligations.RecordFormsAndReservedRecords : Prop :=
  (∀ r m d, decodeRecord r = .ok (.pulseHi m d) ↔
    (∃ p : Pin, m = 1#32 <<< p.val) ∧ d ≠ 0#32 ∧ r = { set := m, clr := 0#32, dur := d }) ∧
  (∀ r m d, decodeRecord r = .ok (.pulseLo m d) ↔
    (∃ p : Pin, m = 1#32 <<< p.val) ∧ d ≠ 0#32 ∧ r = { set := 0#32, clr := m, dur := d }) ∧
  (∀ r, decodeRecord r = .error .reservedPulse ↔
    r.dur = 0#32 ∨
      (¬ (r.clr = 0#32 ∧ ∃ p : Pin, r.set = 1#32 <<< p.val) ∧ ¬ (r.set = 0#32 ∧ ∃ p : Pin, r.clr = 1#32 <<< p.val)))

/-- R96: the role of each pulse of the frame of a payload, by its index, and the role read back from the index. -/
def Obligations.RoleOfPulseFromIndex : Prop :=
  ∀ bytes : List Byte,
    (frameSymbols bytes).length = 4 + 10 * bytes.length ∧
    (frameSymbols bytes)[0]? = some .symBreak ∧ (frameSymbols bytes)[1]? = some .symMab ∧
    (frameSymbols bytes)[2]? = some .symSc ∧ (frameSymbols bytes)[3]? = some (.symStop none) ∧
    (∀ i b, bytes[i]? = some b →
      (frameSymbols bytes)[4 + 10 * i]? = some (.symStart i) ∧
      (∀ j : Fin 8, (frameSymbols bytes)[4 + 10 * i + 1 + j.val]? =
        some (if b.getLsbD j.val then .symData1 i j else .symData0 i j)) ∧
      (frameSymbols bytes)[4 + 10 * i + 9]? = some (.symStop (some i))) ∧
    (∀ k b, (frameSymbols bytes)[k]? = some (symbolAt k b).2 ∨ (frameSymbols bytes)[k]? = some (symbolAt k !b).2 ∨
      4 + 10 * bytes.length ≤ k)

/-- R62: a record serialised to bytes is little-endian, `set` first, then `clr`, then `dur`, and is read back. -/
def Obligations.SerialisedRecordIsLittleEndian : Prop :=
  ∀ r : Pulse,
    (pulseBytes r).length = 12 ∧ bytesPulse (pulseBytes r) = some r ∧
    ∀ m : Fin 4,
      (pulseBytes r)[m.val]? = some (BitVec.ofNat 8 (r.set.toNat / 2 ^ (8 * m.val))) ∧
      (pulseBytes r)[4 + m.val]? = some (BitVec.ofNat 8 (r.clr.toNat / 2 ^ (8 * m.val))) ∧
      (pulseBytes r)[8 + m.val]? = some (BitVec.ofNat 8 (r.dur.toNat / 2 ^ (8 * m.val)))

/-! ### The encoder -/

/-- R93, R94: the form and the masks of a symbol's record by logical level and polarity, and its duration `n · U`. -/
def Obligations.SymbolRecordForm : Prop :=
  ∀ (c : PinConfig) (n : Nat), n * Config.u < 2 ^ 32 →
    (∀ l, (mkPulse c l n).dur.toNat = n * Config.u) ∧
    (c.invertTx = false →
      (mkPulse c .mark n).set = 1#32 <<< c.txPin.val ∧ (mkPulse c .mark n).clr = 0#32 ∧
      (mkPulse c .space n).set = 0#32 ∧ (mkPulse c .space n).clr = 1#32 <<< c.txPin.val) ∧
    (c.invertTx = true →
      (mkPulse c .mark n).set = 0#32 ∧ (mkPulse c .mark n).clr = 1#32 <<< c.txPin.val ∧
      (mkPulse c .space n).set = 1#32 <<< c.txPin.val ∧ (mkPulse c .space n).clr = 0#32)

/-- R91: every record the encoder makes has one of the two forms, on the TX pin, with `dur > 0`. -/
def Obligations.EncoderMakesOnlyTxForms : Prop :=
  ∀ (c : PinConfig) (bytes : List Byte), ∀ r ∈ encodeRecords c bytes,
    0 < r.dur.toNat ∧
    ((r.set = 1#32 <<< c.txPin.val ∧ r.clr = 0#32) ∨ (r.set = 0#32 ∧ r.clr = 1#32 <<< c.txPin.val))

/-- R141: `4 + 10·N` records and `(35 + 11·N)·U` microseconds; per byte 10 records and `11·U`. -/
def Obligations.EncodedLengthAndDuration : Prop :=
  ∀ (c : PinConfig) (bytes : List Byte),
    (encodeRecords c bytes).length = 4 + 10 * bytes.length ∧
    totalMicros (encodeRecords c bytes) = (35 + 11 * bytes.length) * Config.u ∧
    ∀ b, (byteRecords c b).length = 10 ∧ totalMicros (byteRecords c b) = 11 * Config.u

/-- R60, R61, R132 to R139: the record at every index of the sequence, bytes in buffer order and bits from bit 0. -/
def Obligations.EncodedRecordAtIndex : Prop :=
  ∀ (c : PinConfig) (bytes : List Byte),
    (encodeRecords c bytes)[0]? = some (mkPulse c .space 22) ∧
    (encodeRecords c bytes)[1]? = some (mkPulse c .mark 2) ∧
    (encodeRecords c bytes)[2]? = some (mkPulse c .space 9) ∧
    (encodeRecords c bytes)[3]? = some (mkPulse c .mark 2) ∧
    ∀ i b, bytes[i]? = some b →
      (encodeRecords c bytes)[4 + 10 * i]? = some (mkPulse c .space 1) ∧
      (∀ j, j < 8 → (encodeRecords c bytes)[4 + 10 * i + 1 + j]? =
        some (mkPulse c (if (b.toNat / 2 ^ j) % 2 = 1 then .mark else .space) 1)) ∧
      (encodeRecords c bytes)[4 + 10 * i + 9]? = some (mkPulse c .mark 2)

/-- R143: when each record of a sequence starts. -/
def Obligations.StartOffsets : Prop :=
  ∀ (c : PinConfig) (bytes : List Byte),
    offsetMicros (encodeRecords c bytes) 0 = 0 ∧
    offsetMicros (encodeRecords c bytes) 1 = 22 * Config.u ∧
    offsetMicros (encodeRecords c bytes) 2 = 24 * Config.u ∧
    offsetMicros (encodeRecords c bytes) 3 = 33 * Config.u ∧
    (∀ i, i < bytes.length →
      offsetMicros (encodeRecords c bytes) (4 + 10 * i) = (35 + 11 * i) * Config.u ∧
      (∀ j, j < 8 → offsetMicros (encodeRecords c bytes) (4 + 10 * i + 1 + j) = (36 + 11 * i + j) * Config.u) ∧
      offsetMicros (encodeRecords c bytes) (4 + 10 * i + 9) = (44 + 11 * i) * Config.u) ∧
    offsetMicros (encodeRecords c bytes) (4 + 10 * bytes.length) = (35 + 11 * bytes.length) * Config.u

/-- R144: the preamble does not depend on the buffer or the polarity, the polarity exchanges the two masks and changes
nothing else, and the TX pin changes only which bit the mask has. -/
def Obligations.PolarityAndPinChangeOnlyMasks : Prop :=
  ∀ (c : PinConfig) (bytes : List Byte),
    ((encodeRecords c bytes).map fun r => r.dur.toNat).take 4 =
      [22 * Config.u, 2 * Config.u, 9 * Config.u, 2 * Config.u] ∧
    (∀ old, (((encodeRecords c bytes).map fun r => recordLevel r c.txPin old ^^ c.invertTx).take 4) =
      [false, true, false, true]) ∧
    encodeRecords { c with invertTx := !c.invertTx } bytes =
      (encodeRecords c bytes).map (fun r => { set := r.clr, clr := r.set, dur := r.dur }) ∧
    ∀ p : Pin, encodeRecords { c with txPin := p } bytes =
      (encodeRecords c bytes).map (fun r =>
        { set := if r.set = 0#32 then 0#32 else 1#32 <<< p.val
          clr := if r.clr = 0#32 then 0#32 else 1#32 <<< p.val
          dur := r.dur })

/-- R145: the level of TX in the middle of each data-bit window gives back the payload; the record of a data bit is
PULSE.HI exactly when the bit differs from `invertTx`; so `encode` is injective in the buffer. -/
def Obligations.SamplingRecoversPayload : Prop :=
  ∀ (c : PinConfig) (bytes : List Byte),
    (∀ i b j old, bytes[i]? = some b → j < 8 →
      (levelAt c.txPin (encodeRecords c bytes) ((36 + 11 * i + j) * Config.u + Config.u / 2) old ^^ c.invertTx) =
        b.getLsbD j) ∧
    (∀ i b j, bytes[i]? = some b → j < 8 →
      ∃ r, (encodeRecords c bytes)[4 + 10 * i + 1 + j]? = some r ∧
        ((∃ m d, decodeRecord r = .ok (.pulseHi m d)) ↔ (b.getLsbD j ^^ c.invertTx) = true)) ∧
    (∀ bytes', encodeRecords c bytes' = encodeRecords c bytes → bytes' = bytes)

/-- The symbols of `FRAME(buf)` (R110) run one after another, into a PS that holds nothing, leave in PS exactly the
records of `encode(buf)` (R140) and change nothing else.  R110 and R140 say that the two sequences are the same.  That the
symbols run on their own, one by one, in any state with a configuration, and change nothing but PS, is the model's choice
(assumption 24, DEDUCED). -/
def Obligations.FrameOfSymbolsIsEncode : Prop :=
  (∀ (s : State) (c : PinConfig) (bytes : List Byte), s.cfg = some c → s.ps.entry = [] →
    execAll (frameSymbols bytes) s = .next { s with ps := { s.ps with entry := encodeRecords c bytes } }) ∧
  (∀ bytes, frameSymbols bytes = [.symBreak, .symMab] ++ [.symSc, .symStop none] ++ bytesSymbols 0 bytes) ∧
  (∀ i b bytes, bytesSymbols i (b :: bytes) = byteSymbols i b ++ bytesSymbols (i + 1) bytes)

/-- R134, R175: the merged start code and nine unit pulses of space are the same waveform on TX. -/
def Obligations.MergedStartCodeSameWaveform : Prop :=
  ∀ (c : PinConfig) (rs : List Pulse) (t : Nat) (old : Bool),
    levelAt c.txPin (mkPulse c .space 9 :: rs) t old =
      levelAt c.txPin (List.replicate 9 (mkPulse c .space 1) ++ rs) t old

/-- R175: while record `k` is held TX is at the level that record gives it, and after the frame it is at mark. -/
def Obligations.TxLevelDuringAndAfterFrame : Prop :=
  ∀ (c : PinConfig) (bytes : List Byte) (t : Nat) (old : Bool),
    (∀ k r, (encodeRecords c bytes)[k]? = some r →
      offsetMicros (encodeRecords c bytes) k ≤ t → t < offsetMicros (encodeRecords c bytes) (k + 1) →
      levelAt c.txPin (encodeRecords c bytes) t old = decide (r.set = 1#32 <<< c.txPin.val)) ∧
    ((35 + 11 * bytes.length) * Config.u ≤ t →
      levelAt c.txPin (encodeRecords c bytes) t old = !c.invertTx)

/-! ### The host commands -/

/-- R202: a successful INIT from an unconfigured block, whatever the pins and polarities, with a working engine and
working pins. -/
def Obligations.InitConfiguresTheBlock : Prop :=
  ∀ (s : State) (tx en : Pin) (invertTx invertEn : Bool) (es ps : List Bool),
    Inv s → s.cfg = none → tx ≠ en → s.env.engineInitOk = true :: es → s.env.pinModeOk = true :: true :: ps →
    ∃ t, exec (.init tx.val en.val invertTx invertEn) s = .next t ∧
      t.cfg = some { txPin := tx, enPin := en, invertTx := invertTx, invertEn := invertEn } ∧ t.engUp = true ∧
      (∀ p, lineMode t p = if p = tx ∨ p = en then .output else lineMode s p) ∧
      (∀ p, lineLevel t p = if p = en then invertEn else lineLevel s p) ∧
      t.tc.inflight = false ∧ t.seq.busy = false ∧ t.ps.valid = false ∧ t.wave.valid = false ∧
      t = { s with
            cfg := t.cfg
            engUp := true
            gpio := t.gpio
            env := { s.env with engineInitOk := es, pinModeOk := ps }
            trace := s.trace ++ [.pin en invertEn, .resp .init .ok] }

/-- R249: when several errors apply the one reported is the first in the order of the command's tests.  INIT answers a
next state whatever its operands, configured or with the engine down; an unconfigured block with the engine up, which R45 a
rules out, is CallsOutOfOrderRefused's. -/
def Obligations.FirstErrorInOrder : Prop :=
  (∀ (s : State) (a b : Int) (x y : Bool), (s.cfg = none → s.engUp = false) → ∃ t es,
    exec (.init a b x y) s = .next t ∧ t.trace = s.trace ++ es ++
      [.resp .init
        (if s.cfg.isSome then .alreadyInitialized
         else if engineAnswer s = false then .hardwareInitFailed
         else if a = b then .samePinError
         else if ¬ (0 ≤ a ∧ a < 32) then .invalidPinError
         else if s.env.pinModeOk.headD true = false then .pinModeError
         else if ¬ (0 ≤ b ∧ b < 32) then .invalidPinError
         else if s.env.pinModeOk.tail.headD true = false then .pinModeError
         else .ok)]) ∧
  (∀ (s : State) (n : Nat),
    (s.cfg = none → exec (.transmit n) s = .next { s with trace := s.trace ++ [.resp .transmit .notInitialized] }) ∧
    (s.cfg ≠ none → s.tc.inflight = true →
      exec (.transmit n) s = .next { s with trace := s.trace ++ [.resp .transmit .busy] })) ∧
  (∀ s : State, Inv s → s.tc.inflight = true → s.cfg ≠ none)

/-- R203, R241: a failed INIT leaves the block unconfigured with the engine down, every level as it was, and at most the
TX pin's mode changed; with `AlreadyInitialized` nothing at all has changed; and a later INIT is judged afresh, as in the
source's example of `init(5, 5, ...)` and then `init(5, 6, ...)`. -/
def Obligations.FailedInitLeavesBlockAsItWas : Prop :=
  ∀ (s : State) (a b : Int) (x y : Bool), Inv s →
    (s.cfg ≠ none → exec (.init a b x y) s = .next { s with trace := s.trace ++ [.resp .init .alreadyInitialized] }) ∧
    (s.cfg = none → ∀ t, exec (.init a b x y) s = .next t → t.cfg = none →
      t.engUp = false ∧ flags t = flags State.reset ∧
      (∀ p, lineLevel t p = lineLevel s p) ∧
      (∀ p, lineMode t p = lineMode s p ∨ ((p.val : Int) = a ∧ lineMode t p = .output)) ∧
      ∃ e, e ≠ .ok ∧ t = { s with gpio := t.gpio, env := t.env, trace := s.trace ++ [.resp .init e] }) ∧
    (∀ es ps, s.cfg = none → s.env.engineInitOk = true :: true :: es → s.env.pinModeOk = true :: true :: ps →
      ∃ t u, exec (.init 5 5 false false) s = .next t ∧ t.cfg = none ∧ t.trace = s.trace ++ [.resp .init .samePinError] ∧
        exec (.init 5 6 false false) t = .next u ∧
        u.cfg = some { txPin := 5, enPin := 6, invertTx := false, invertEn := false } ∧
        u.trace = t.trace ++ [.pin 6 false, .resp .init .ok])

/-- R210, R242: TRANSMIT in every condition; an accepted one reads the payload, encodes it and starts the worker. -/
def Obligations.TransmitByCondition : Prop :=
  ∀ (s : State) (n : Nat),
    (s.cfg = none → exec (.transmit n) s = .next { s with trace := s.trace ++ [.resp .transmit .notInitialized] }) ∧
    ∀ c, s.cfg = some c →
      (s.tc.inflight = true →
        exec (.transmit n) s = .next { s with trace := s.trace ++ [.resp .transmit .busy] }) ∧
      (s.tc.inflight = false → payloadFits n = false → exec (.transmit n) s = .refused .payloadTooLong) ∧
      (s.tc.inflight = false → payloadFits n = true →
        exec (.transmit n) s = .next
          { s with
            ps := { valid := true, entry := encodeRecords c ((List.range n).map fun i => Memory.read s.buf i) }
            tc := { s.tc with n := n, wstep := .wEnable, inflight := true }
            trace := s.trace ++ [.resp .transmit .ok] })

/-- R230, R231, R233: CLOSE unconfigures the block and terminates the engine; it changes nothing in an unconfigured
block, two in a row equal one, and in flight it is the model's fault. -/
def Obligations.CloseByCondition : Prop :=
  (∀ s : State, s.tc.inflight = true → exec .close s = .fault .closeInFlight) ∧
  (∀ s : State, s.tc.inflight = false → s.engUp = true →
    exec .close s = .next
      { s with
        cfg := none
        engUp := false
        seq := { s.seq with busy := false }
        wave := { s.wave with valid := false }
        trace := s.trace ++ [.resp .close .ok] }) ∧
  (∀ s : State, s.tc.inflight = false → s.engUp = false →
    exec .close s = .next { s with cfg := none, trace := s.trace ++ [.resp .close .ok] }) ∧
  (∀ s : State, s.tc.inflight = false → s.engUp = false → s.cfg = none →
    exec .close s = .next { s with trace := s.trace ++ [.resp .close .ok] }) ∧
  (∀ s t : State, exec .close s = .next t →
    exec .close t = .next { t with trace := t.trace ++ [.resp .close .ok] })

/-- R234: every command in every host-visible condition: its result and the condition after it. -/
def Obligations.CommandConditionTable : Prop :=
  ∀ s : State, Inv s →
    (condition s = .unconfigured →
      (∀ a b x y, ∃ t es code, exec (.init a b x y) s = .next t ∧ t.trace = s.trace ++ es ++ [.resp .init code] ∧
        ((code = .ok ∧ condition t = .configuredIdle) ∨
         (code ∈ [.hardwareInitFailed, .samePinError, .invalidPinError, .pinModeError] ∧ condition t = .unconfigured))) ∧
      (∀ n, exec (.transmit n) s = .next { s with trace := s.trace ++ [.resp .transmit .notInitialized] }) ∧
      exec .close s = .next { s with trace := s.trace ++ [.resp .close .ok] }) ∧
    (condition s = .configuredIdle →
      (∀ a b x y, exec (.init a b x y) s = .next { s with trace := s.trace ++ [.resp .init .alreadyInitialized] }) ∧
      (∀ n, (payloadFits n = false → exec (.transmit n) s = .refused .payloadTooLong) ∧
        (payloadFits n = true →
          ∃ t, exec (.transmit n) s = .next t ∧ condition t = .inFlight ∧ t.trace = s.trace ++ [.resp .transmit .ok])) ∧
      ∃ t, exec .close s = .next t ∧ condition t = .unconfigured ∧ t.trace = s.trace ++ [.resp .close .ok]) ∧
    (condition s = .inFlight →
      (∀ a b x y, exec (.init a b x y) s = .next { s with trace := s.trace ++ [.resp .init .alreadyInitialized] }) ∧
      (∀ n, exec (.transmit n) s = .next { s with trace := s.trace ++ [.resp .transmit .busy] }) ∧
      exec .close s = .fault .closeInFlight ∧
      (s.tc.wstep = .wDone → ∀ rest, s.agenda = .worker :: rest →
        ∃ t, step s = .next t ∧ condition t = .configuredIdle ∧ t.trace = s.trace ++ [.done]))

/-! ### The engine primitives and the enable line -/

/-- R160: ENGINE_INIT by the environment's answer, with the engine down; the draw changes only the environment's answers to
come.  R160 has it called only when ENG.up = 0, so with the engine up it is refused (R177).  That the answers come from a
list, each used up by its draw, is the model's choice (assumption 5, DEDUCED). -/
def Obligations.EngineInitByAnswer : Prop :=
  ∀ s : State,
    (s.engUp = false → engineAnswer s = true →
      exec .engineInit s = .next
        { s with
          engUp := true
          seq := { s.seq with busy := false }
          wave := { s.wave with valid := false }
          env := (takeEngineAnswer s).env
          callResult := some .ok }) ∧
    (s.engUp = false → engineAnswer s = false →
      exec .engineInit s = .next { s with env := (takeEngineAnswer s).env, callResult := some .engineErr }) ∧
    (s.engUp = true → exec .engineInit s = .refused .engineMisuse) ∧
    (∀ b bs, s.env.engineInitOk = b :: bs →
      engineAnswer s = b ∧ (takeEngineAnswer s).env = { s.env with engineInitOk := bs })

/-- R161: ENGINE_TERM clears its three flags when the engine is up and does nothing when it is down.  That it does so while
the sequencer plays, where the source defines nothing, is the model's choice (assumption 16, DEDUCED). -/
def Obligations.EngineTermClearsFlags : Prop :=
  ∀ s : State,
    (s.engUp = true →
      exec .engineTerm s = .next
        { s with engUp := false, seq := { s.seq with busy := false }, wave := { s.wave with valid := false } }) ∧
    (s.engUp = false → exec .engineTerm s = .next s)

/-- R162: SET_PIN_MODE on an invalid pin, on a line whose mode cannot be set, and on one whose mode can. -/
def Obligations.SetPinModeResults : Prop :=
  ∀ (s : State) (pin : Int), s.engUp = true →
    (¬ (0 ≤ pin ∧ pin < 32) →
      exec (.setPinMode pin) s = .next { s with callResult := some (.pinErr .invalidPin) }) ∧
    (0 ≤ pin ∧ pin < 32 → pinModeAnswer s = false →
      exec (.setPinMode pin) s = .next
        { s with env := { s.env with pinModeOk := s.env.pinModeOk.tail }, callResult := some (.pinErr .pinMode) }) ∧
    (0 ≤ pin ∧ pin < 32 → pinModeAnswer s = true →
      ∃ t, exec (.setPinMode pin) s = .next t ∧
        (∀ q : Pin, lineMode t q = (if (q.val : Int) = pin then .output else lineMode s q) ∧
          lineLevel t q = lineLevel s q) ∧
        t = { s with
              gpio := t.gpio
              env := { s.env with pinModeOk := s.env.pinModeOk.tail }
              callResult := some .ok })

/-- R163: WRITE_PIN on a valid line in Output mode drives that line and no other, and its result is Ok; on an invalid pin
or a line not in Output mode it is refused. -/
def Obligations.WritePinDrivesOneLine : Prop :=
  ∀ (s : State) (level : Bool),
    (∀ p : Pin, s.engUp = true → lineMode s p = .output →
      ∃ t, exec (.writePin p.val level) s = .next t ∧ DrivesOnly p level s t ∧
        t = { s with gpio := t.gpio, trace := s.trace ++ [.pin p level], callResult := some .ok }) ∧
    (∀ p : Pin, lineMode s p ≠ .output → exec (.writePin p.val level) s = .refused .engineMisuse) ∧
    (∀ p : Int, Config.validPin p = false → exec (.writePin p level) s = .refused .engineMisuse)

/-- R164: SUBMIT_WAVE copies PS into WAVE and answers the handle; a call that breaks a requirement is refused. -/
def Obligations.SubmitWaveCopiesPs : Prop :=
  ∀ s : State,
    (s.ps.valid = true → s.engUp = true → s.wave.valid = false → s.seq.busy = false →
      exec .submitWave s = .next
        { s with wave := { valid := true, entry := s.ps.entry }, callResult := some .handle }) ∧
    (s.ps.valid = false ∨ s.engUp = false ∨ s.wave.valid = true ∨ s.seq.busy = true →
      exec .submitWave s = .refused .engineMisuse)

/-- R166: START_PLAYBACK sets the index to 0 and the busy flag, and applies no record itself; started with no waveform or
while playing it is refused. -/
def Obligations.StartPlaybackSetsIndex : Prop :=
  ∀ s : State,
    (s.engUp = true → s.wave.valid = true → s.seq.busy = false →
      exec .startPlayback s = .next { s with seq := { s.seq with idx := 0, busy := true } }) ∧
    (s.wave.valid = false ∨ s.seq.busy = true → exec .startPlayback s = .refused .engineMisuse)

/-- R167: IS_BUSY answers SEQ.busy, 0 with the engine down, and has no side effect. -/
def Obligations.IsBusyAnswersFlag : Prop :=
  ∀ s : State,
    (s.engUp = true → exec .isBusy s = .next { s with callResult := some (.busy s.seq.busy) }) ∧
    (s.engUp = false → exec .isBusy s = .next { s with callResult := some (.busy false) })

/-- R168: DELETE_WAVE makes the waveform invalid, leaves its records and touches no line; with no waveform or while
playing it is refused. -/
def Obligations.DeleteWaveInvalidates : Prop :=
  ∀ s : State,
    (s.engUp = true → s.wave.valid = true → s.seq.busy = false →
      exec .deleteWave s = .next { s with wave := { s.wave with valid := false } }) ∧
    (s.wave.valid = false ∨ s.seq.busy = true → exec .deleteWave s = .refused .engineMisuse)

/-- R177 for the primitives, and U9 for those called with the engine down (assumption 15): one whose requirements do not
hold is refused, and with the engine up ENGINE_INIT is.  That an INIT which makes that call out of order is refused with it
is the model's reading (assumption 16, DEDUCED).  The last clause is not R177's: it is the `CFG.valid = 1` that R190 and R191
require of EN_ENABLE and EN_DISABLE, read as a refusal by the model's choice (assumption 12). -/
def Obligations.CallsOutOfOrderRefused : Prop :=
  ∀ s : State,
    (s.engUp = false →
      (∀ p, exec (.setPinMode p) s = .refused .engineMisuse) ∧ (∀ p b, exec (.writePin p b) s = .refused .engineMisuse) ∧
      exec .submitWave s = .refused .engineMisuse ∧ exec .startPlayback s = .refused .engineMisuse ∧
      exec .deleteWave s = .refused .engineMisuse) ∧
    (s.engUp = true → exec .engineInit s = .refused .engineMisuse ∧
      (s.cfg = none → ∀ a b x y, exec (.init a b x y) s = .refused .engineMisuse)) ∧
    (∀ p b, ¬ (0 ≤ p ∧ p < 32) → exec (.writePin p b) s = .refused .engineMisuse) ∧
    (∀ (p : Pin) b, lineMode s p ≠ .output → exec (.writePin p.val b) s = .refused .engineMisuse) ∧
    (s.ps.valid = false ∨ s.wave.valid = true ∨ s.seq.busy = true → exec .submitWave s = .refused .engineMisuse) ∧
    (s.wave.valid = false ∨ s.seq.busy = true →
      exec .startPlayback s = .refused .engineMisuse ∧ exec .deleteWave s = .refused .engineMisuse) ∧
    (s.cfg = none → exec .enEnable s = .refused .engineMisuse ∧ exec .enDisable s = .refused .engineMisuse)

/-- R192 (R190, R191): EN_ENABLE and EN_DISABLE drive EN to the level `enabled ^ invertEn` and no other line. -/
def Obligations.EnLineFollowsPolarity : Prop :=
  ∀ (s : State) (c : PinConfig), s.cfg = some c → s.engUp = true → lineMode s c.enPin = .output →
    (∃ t, exec .enEnable s = .next t ∧ DrivesOnly c.enPin (!c.invertEn) s t ∧
      t = { s with gpio := t.gpio, trace := s.trace ++ [.pin c.enPin (!c.invertEn)] }) ∧
    (∃ t, exec .enDisable s = .next t ∧ DrivesOnly c.enPin c.invertEn s t ∧
      t = { s with gpio := t.gpio, trace := s.trace ++ [.pin c.enPin c.invertEn] })

/-! ### Pulses and symbols -/

/-- R170, R171: PULSE.HI and PULSE.LO drive the one line of their mask, TX, hold for `dur`, and advance the index.  That
they do so whatever SEQ.busy, SEQ.rem and WAVE are, where R172 gives the sequencer no step, is the model's choice
(assumption 25, DEDUCED). -/
def Obligations.PulseDrivesTxAndHolds : Prop :=
  ∀ (s : State) (c : PinConfig) (dur : Micros), s.cfg = some c → dur ≠ 0#32 →
    (∃ t, exec (.pulseHi (1#32 <<< c.txPin.val) dur) s = .next t ∧ DrivesOnly c.txPin true s t ∧
      t = { s with
            gpio := t.gpio
            seq := { s.seq with rem := dur.toNat, idx := s.seq.idx + 1 }
            trace := s.trace ++ [.pulse s.seq.idx (1#32 <<< c.txPin.val) 0#32 dur] }) ∧
    (∃ t, exec (.pulseLo (1#32 <<< c.txPin.val) dur) s = .next t ∧ DrivesOnly c.txPin false s t ∧
      t = { s with
            gpio := t.gpio
            seq := { s.seq with rem := dur.toNat, idx := s.seq.idx + 1 }
            trace := s.trace ++ [.pulse s.seq.idx 0#32 (1#32 <<< c.txPin.val) dur] })

/-- R106, R174: a record of a reserved kind is refused, fetched by the sequencer or run as a pulse form. -/
def Obligations.ReservedRecordsRefused : Prop :=
  ∀ (s : State) (c : PinConfig) (r : Pulse), s.cfg = some c →
    r.dur = 0#32 ∨
      (¬ (r.set = 1#32 <<< c.txPin.val ∧ r.clr = 0#32) ∧ ¬ (r.set = 0#32 ∧ r.clr = 1#32 <<< c.txPin.val)) →
    runRecord r s = .refused .reservedPulse ∧
    (r.clr = 0#32 → exec (.pulseHi r.set r.dur) s = .refused .reservedPulse) ∧
    (r.set = 0#32 → exec (.pulseLo r.clr r.dur) s = .refused .reservedPulse)

/-- R132 to R139: each symbol writes its own record at its own index of PS and changes nothing else.  That it does so
outside `encode` is the model's choice (assumption 24). -/
def Obligations.SymbolsWriteTheirRecords : Prop :=
  ∀ (s : State) (c : PinConfig), s.cfg = some c →
    WritesPsRecord .symBreak 0 (mkPulse c .space 22) s ∧
    WritesPsRecord .symMab 1 (mkPulse c .mark 2) s ∧
    WritesPsRecord .symSc 2 (mkPulse c .space 9) s ∧
    WritesPsRecord (.symStop none) 3 (mkPulse c .mark 2) s ∧
    ∀ i, WritesPsRecord (.symStart i) (4 + 10 * i) (mkPulse c .space 1) s ∧
      WritesPsRecord (.symStop (some i)) (4 + 10 * i + 9) (mkPulse c .mark 2) s ∧
      ∀ j : Fin 8,
        WritesPsRecord (.symData0 i j) (4 + 10 * i + 1 + j.val) (mkPulse c .space 1) s ∧
        WritesPsRecord (.symData1 i j) (4 + 10 * i + 1 + j.val) (mkPulse c .mark 1) s

/-- The model's choice of assumption 12 (U14: "If stored, any value"): a symbol run with no configuration completes, and
writes the record of its own index, with the duration of its own units (both read off its encoding, R95 and R96), in one
of the two forms (R91) on a line and a polarity that are free values, and nothing else.  That it runs on its own is
assumption 24. -/
def Obligations.SymbolsRunWithoutConfiguration : Prop :=
  ∀ (s : State) (i : Instr) (pattern : BitVec 6) (k : Nat), encode i = .symbol pattern k → s.cfg = none →
    ∃ t r p, exec i s = .next t ∧ readRecord t.ps.entry k = r ∧
      (∀ m, m ≠ k → readRecord t.ps.entry m = readRecord s.ps.entry m) ∧
      r.dur.toNat = (pattern.extractLsb' 0 5).toNat * Config.u ∧
      ((r.set = 1#32 <<< p.val ∧ r.clr = 0#32) ∨ (r.set = 0#32 ∧ r.clr = 1#32 <<< Fin.val (n := 32) p)) ∧
      t = { s with ps := { s.ps with entry := t.ps.entry }, env := { s.env with drawn := s.env.drawn + 1 } }

/-! ### Frames -/

/-- R23: only a successful INIT and CLOSE write the configuration, and INIT writes it whole from its operands. -/
def Obligations.OnlyInitAndCloseWriteConfiguration : Prop :=
  (∀ (i : Instr) (s t : State), exec i s = .next t → t.cfg ≠ s.cfg →
    (i = .close ∧ t.cfg = none) ∨
    (s.cfg = none ∧ ∃ tx en : Pin, ∃ x y, i = .init tx.val en.val x y ∧
      t.cfg = some { txPin := tx, enPin := en, invertTx := x, invertEn := y })) ∧
  (∀ s t : State, (workerStep s = .next t ∨ seqStep s = .next t) → t.cfg = s.cfg) ∧
  (∀ (s : State) (n : Nat), (elapse n s).cfg = s.cfg)

/-- R37: which operations may change each flag other than CFG.valid. -/
def Obligations.FlagsChangeOnlyByTheirOperations : Prop :=
  (∀ (i : Instr) (s t : State), exec i s = .next t →
    (t.engUp ≠ s.engUp → i = .close ∨ i = .engineInit ∨ i = .engineTerm ∨ ∃ a b x y, i = .init a b x y) ∧
    (t.tc ≠ s.tc → ∃ n, i = .transmit n) ∧
    (t.seq.busy ≠ s.seq.busy →
      i = .startPlayback ∨ i = .close ∨ i = .engineInit ∨ i = .engineTerm ∨ ∃ a b x y, i = .init a b x y) ∧
    (t.ps.valid ≠ s.ps.valid → ∃ n, i = .transmit n) ∧
    (t.wave.valid ≠ s.wave.valid →
      i = .submitWave ∨ i = .deleteWave ∨ i = .close ∨ i = .engineInit ∨ i = .engineTerm ∨
        ∃ a b x y, i = .init a b x y)) ∧
  (∀ s t : State, workerStep s = .next t →
    t.engUp = s.engUp ∧
    (t.tc.inflight ≠ s.tc.inflight → s.tc.wstep = .wDone) ∧ (t.seq.busy ≠ s.seq.busy → s.tc.wstep = .wStart) ∧
    (t.ps.valid ≠ s.ps.valid → s.tc.wstep = .wFree) ∧
    (t.wave.valid ≠ s.wave.valid → s.tc.wstep = .wSubmit ∨ s.tc.wstep = .wDelete)) ∧
  (∀ s t : State, seqStep s = .next t →
    t.engUp = s.engUp ∧ t.tc = s.tc ∧ t.ps = s.ps ∧ t.wave = s.wave ∧
    (t.seq.busy ≠ s.seq.busy → s.seq.busy = true ∧ t.trace = s.trace ++ [.idle]))

/-- The frame of every operation, by the groups of R100: what it leaves unchanged when it answers a next state.  Every
byte of BUF reads as before: the block stores nothing there (R66). -/
def Obligations.FrameByGroup : Prop :=
  ∀ (i : Instr) (s t : State), exec i s = .next t →
    (∀ a, Memory.read t.buf a = Memory.read s.buf a) ∧ t.agenda = s.agenda ∧ t.now = s.now ∧
    (∃ es, t.trace = s.trace ++ es) ∧
    (opGroup i = .hostCommand →
      t.wave.entry = s.wave.entry ∧ t.seq.idx = s.seq.idx ∧ t.seq.rem = s.seq.rem ∧ t.callResult = s.callResult) ∧
    (opGroup i = .enginePrimitive → t.cfg = s.cfg ∧ t.ps = s.ps ∧ t.tc = s.tc ∧ t.seq.rem = s.seq.rem) ∧
    (opGroup i = .enableLine →
      t = { s with gpio := t.gpio, trace := t.trace } ∧ ∀ p, lineMode t p = lineMode s p) ∧
    (opGroup i = .pulseForm →
      t = { s with gpio := t.gpio, seq := t.seq, trace := t.trace } ∧ t.seq.busy = s.seq.busy ∧
        ∀ p, lineMode t p = lineMode s p) ∧
    (opGroup i = .symbol →
      t = { s with ps := { s.ps with entry := t.ps.entry }, env := t.env } ∧ (s.cfg ≠ none → t.env = s.env))

/-- R26, R27, R66: an operation changes a line's mode only to Output and only by INIT or SET_PIN_MODE of that line, and a
line's level only by WRITE_PIN of that line, by INIT, EN_ENABLE or EN_DISABLE on the EN pin, or by a pulse form on the
TX pin. -/
def Obligations.LinesChangeOnlyByName : Prop :=
  ∀ (i : Instr) (s t : State) (p : Pin), exec i s = .next t →
    (lineMode t p ≠ lineMode s p → lineMode t p = .output ∧
      (i = .setPinMode p.val ∨ ∃ a b x y, i = .init a b x y ∧ ((p.val : Int) = a ∨ (p.val : Int) = b))) ∧
    (lineLevel t p ≠ lineLevel s p →
      (∃ b, i = .writePin p.val b) ∨ (∃ a x y, i = .init a p.val x y) ∨
      (∃ c, s.cfg = some c ∧ c.enPin = p ∧ (i = .enEnable ∨ i = .enDisable)) ∨
      ((∀ c ∈ s.cfg, c.txPin = p) ∧ ∃ d, i = .pulseHi (1#32 <<< p.val) d ∨ i = .pulseLo (1#32 <<< p.val) d))

/-! ### Steps -/

/-- R75, R101, R104, and the model's ports (assumptions 14 and 20): a host's turn, and a turn on the internal port, run exactly the operation decoded, the bytes that
follow a command word standing in BUF. -/
def Obligations.StepRunsDecodedOperation : Prop :=
  (∀ (s : State) w bytes rest i, s.agenda = .host w bytes :: rest → decode (.cmd w) = .ok i →
    step s = exec i { s with agenda := rest, buf := Memory.place s.buf 0 bytes }) ∧
  (∀ (s : State) raw rest i, s.agenda = .internal raw :: rest → decode raw = .ok i →
    step s = exec i { s with agenda := rest })

/-- R172, R173, R63: a step of the sequencer runs exactly the record at SEQ.idx, and at the end of the waveform it
finishes.  The clauses with an empty agenda say besides that the sequencer then moves before the worker: R257 leaves that
order open, and it is the model's choice (assumption 2, DESIGN CHOICE). -/
def Obligations.StepRunsFetchedRecord : Prop :=
  ∀ s : State, s.seq.busy = true → s.seq.rem = 0 → s.wave.valid = true →
    (∀ r i, s.wave.entry[s.seq.idx]? = some r → decodeRecord r = .ok i →
      (s.agenda = [] → step s = exec i s) ∧
      (∀ rest, s.agenda = .sequencer :: rest → step s = exec i { s with agenda := rest })) ∧
    (s.seq.idx = s.wave.entry.length →
      (s.agenda = [] → step s = .next { s with seq := { s.seq with busy := false }, trace := s.trace ++ [.idle] }) ∧
      (∀ rest, s.agenda = .sequencer :: rest →
        step s = .next { s with agenda := rest, seq := { s.seq with busy := false }, trace := s.trace ++ [.idle] }))

/-- R216 to R222, R224, and the detector's looks of R298 as the model has them (assumption 18): what each worker step does,
at the worker's turn. -/
def Obligations.WorkerStepEffects : Prop :=
  ∀ (s : State) (c : PinConfig) (rest : List Turn),
    Inv s → s.tc.inflight = true → s.cfg = some c → s.agenda = .worker :: rest →
    (s.tc.wstep = .wEnable → ∃ t, step s = .next t ∧ DrivesOnly c.enPin (!c.invertEn) s t ∧
      t = { s with
            gpio := t.gpio, agenda := rest, tc := { s.tc with wstep := .wSubmit }
            trace := s.trace ++ [.pin c.enPin (!c.invertEn)] }) ∧
    (s.tc.wstep = .wSubmit → step s = .next
      { s with agenda := rest, wave := { valid := true, entry := s.ps.entry }, tc := { s.tc with wstep := .wStart } }) ∧
    (s.tc.wstep = .wStart → step s = .next
      { s with
        agenda := rest, seq := { s.seq with idx := 0, busy := true }
        tc := { s.tc with wstep := .wWait, look := (22 + 2 + 10 + s.tc.n) * Config.u } }) ∧
    (s.tc.wstep = .wWait → s.tc.look = 0 → s.seq.busy = false → step s = .next
      { s with agenda := rest, tc := { s.tc with wstep := .wDisable } }) ∧
    (s.tc.wstep = .wWait → s.tc.look = 0 → s.seq.busy = true → step s = .next
      { s with agenda := rest, tc := { s.tc with look := 10 * Config.u } }) ∧
    (s.tc.wstep = .wDisable → ∃ t, step s = .next t ∧ DrivesOnly c.enPin c.invertEn s t ∧
      t = { s with
            gpio := t.gpio, agenda := rest, tc := { s.tc with wstep := .wDelete }
            trace := s.trace ++ [.pin c.enPin c.invertEn] }) ∧
    (s.tc.wstep = .wDelete → step s = .next
      { s with agenda := rest, wave := { s.wave with valid := false }, tc := { s.tc with wstep := .wFree } }) ∧
    (s.tc.wstep = .wFree → step s = .next
      { s with agenda := rest, ps := { s.ps with valid := false }, tc := { s.tc with wstep := .wDone } }) ∧
    (s.tc.wstep = .wDone → step s = .next
      { s with agenda := rest, tc := { s.tc with inflight := false }, trace := s.trace ++ [.done] })

/-- R101, R61, and the model's placing of the stream (assumption 20): the bytes a command brings are the payload it reads, `BUF[0]` first, and no other byte of BUF changes. -/
def Obligations.StreamBecomesPayload : Prop :=
  ∀ (s : State) (bytes : List Byte), Memory.wf s.buf = true →
    payload { s with buf := Memory.place s.buf 0 bytes } bytes.length = bytes ∧
    ∀ a, bytes.length ≤ a → Memory.read (Memory.place s.buf 0 bytes) a = Memory.read s.buf a

/-! ### Invariants and whole-machine rules -/

/-- R47, R280, R281, the block by itself being the model's empty agenda (assumption 2): after reset every flag is 0 and the trace is empty, the block takes no step by itself, and a
TRANSMIT fails with NotInitialized. -/
def Obligations.ResetState : Prop :=
  flags State.reset =
    { cfgValid := false, engUp := false, inflight := false, busy := false, psValid := false, waveValid := false } ∧
  State.reset.trace = [] ∧ transmissionState State.reset = .idle ∧ step State.reset = .next State.reset ∧
  ∀ n, exec (.transmit n) State.reset =
    .next { State.reset with trace := [.resp .transmit .notInitialized] }

/-- R22, R45: the invariants hold after reset.  Of these NoHoldWhenIdle holds at reset only by the model's choice: R47 leaves
SEQ.rem unspecified there and State.reset has it 0 (assumption 11, DESIGN CHOICE); that BUF is canonical and the agenda holds
nothing is of the model's own fields (assumptions 9 and 11). -/
def Obligations.ResetMeetsInvariants : Prop := Inv State.reset

/-- R22, R45, R31, R194: every step keeps the invariants, from every state that meets them. -/
def Obligations.StepKeepsInvariants : Prop :=
  ∀ s t : State, Inv s → step s = .next t → Inv t

/-- R174, R78: whatever stands in a valid pulse memory was made by the encoder; every step keeps this. -/
def Obligations.StepKeepsFramesEncodings : Prop :=
  ∀ s t : State, Inv s → FramesAreEncodings s → step s = .next t → FramesAreEncodings t

/-- R65, R177, R254, and spec/93_implementation_defined.md: from a state that meets the invariants the block goes on,
unless the host closes it in flight, or sends a reserved word or a TRANSMIT longer than N_MAX. -/
def Obligations.BlockGoesOnForPoliteHost : Prop :=
  ∀ s : State, Inv s → ¬ closesInFlight s → ¬ badCommand s → ∃ t, step s = .next t

/-- R224, R256: the accepted TRANSMITs are as many as the DONE events, plus one while a transmission is in flight; every
step keeps this. -/
def Obligations.OneDonePerAcceptedTransmit : Prop :=
  ∀ s t : State, step s = .next t →
    acceptedCount s.trace = doneCount s.trace + (if s.tc.inflight then 1 else 0) →
    acceptedCount t.trace = doneCount t.trace + (if t.tc.inflight then 1 else 0)

/-- R195: a pulse never disturbs EN, EN_ENABLE and EN_DISABLE never disturb TX, and INIT rejects one line for both. -/
def Obligations.EnAndTxNeverDisturbEachOther : Prop :=
  (∀ (s t : State) (c : PinConfig), Inv s → s.cfg = some c →
    (∀ r, runRecord r s = .next t → lineLevel t c.enPin = lineLevel s c.enPin) ∧
    (∀ b, writeEn b s = .next t → lineLevel t c.txPin = lineLevel s c.txPin)) ∧
  (∀ (s : State) (a : Int) (x y : Bool), s.cfg = none → s.engUp = false → engineAnswer s = true →
    ∃ t, exec (.init a a x y) s = .next t ∧ t.cfg = none ∧ t.trace = s.trace ++ [.resp .init .samePinError])

/-- R73 (a), (d), R194: whenever a step applies a record, the driver is on before and after it. -/
def Obligations.DriverOnAroundEveryPulse : Prop :=
  ∀ (s t : State) (k : Nat) (a b : Mask) (d : Micros), Inv s → step s = .next t →
    t.trace = s.trace ++ [.pulse k a b d] →
    ∃ c, s.cfg = some c ∧ t.cfg = some c ∧ lineLevel s c.enPin = (!c.invertEn) ∧ lineLevel t c.enPin = (!c.invertEn)

/-- R73 (b), (c), R297, as the model's time keeps them (assumption 17): once record 0 has been applied, no step moves the moment at which the current hold ends, and the
next record is applied, or the sequencer finishes, at exactly that moment. -/
def Obligations.RecordHeldExactlyItsDuration : Prop :=
  ∀ s t : State, Inv s → s.seq.busy = true → s.seq.idx ≠ 0 → step s = .next t →
    (t.seq.busy = true ∧ t.seq.idx = s.seq.idx ∧ t.now + t.seq.rem = s.now + s.seq.rem) ∨
    (s.seq.rem = 0 ∧ t.now = s.now ∧ t.seq.busy = true ∧ t.seq.idx = s.seq.idx + 1 ∧
      ∃ r, s.wave.entry[s.seq.idx]? = some r ∧ t.seq.rem = r.dur.toNat) ∨
    (s.seq.rem = 0 ∧ t.now = s.now ∧ t.seq.busy = false ∧ s.seq.idx = s.wave.entry.length)

/-- R212, R223: while a transmission is in flight a host command that is answered is rejected, and changes nothing but
the trace.  That the bytes which came with it stand in the host's own buffer all the same is the model's choice (assumption
20, DESIGN CHOICE). -/
def Obligations.CommandsInFlightOnlyRejected : Prop :=
  ∀ (s t : State) w bytes rest, Inv s → s.tc.inflight = true → s.agenda = .host w bytes :: rest → step s = .next t →
    ∃ e, (e = .resp .init .alreadyInitialized ∨ e = .resp .transmit .busy) ∧
      t = { s with agenda := rest, buf := Memory.place s.buf 0 bytes, trace := s.trace ++ [e] }

/-- R69: once a transmission is in flight nothing depends on what BUF holds. -/
def Obligations.PayloadNotReadAfterAcceptance : Prop :=
  ∀ (s t : State) (m : Memory), s.tc.inflight = true → step s = .next t →
    ∃ m', step { s with buf := m } = .next { t with buf := m' }

/-- R225, R213: from acceptance on, with nothing else going on (the model's empty agenda, assumptions 2 and 23), the block runs by itself to DONE with exactly this trace,
and the state is then as before but for TX, which is at mark. -/
def Obligations.TransmissionRunsToDone : Prop :=
  ∀ (s t : State) (c : PinConfig) (n : Nat), Inv s → s.cfg = some c → s.agenda = [] →
    s.tc.inflight = false → payloadFits n = true → exec (.transmit n) s = .next t →
    ∃ k u, Sys2Proof.core.run k t = .next u ∧ u.trace = s.trace ++ transmissionTrace c (payload s n) ∧
      u.cfg = s.cfg ∧ u.engUp = s.engUp ∧ flags u = flags s ∧ u.buf = s.buf ∧ u.env = s.env ∧ u.agenda = [] ∧
      DrivesOnly c.txPin (!c.invertTx) s u

/-- R298, R299, R301, in the nominal case: from W_START on, with nothing else going on and the model's zero start latency and
exact sleeps (assumptions 17 and 18), EN falls `9·U` after the frame ends. -/
def Obligations.EnFallsNineUnitsAfterFrame : Prop :=
  ∀ (s : State) (c : PinConfig), Inv s → FramesAreEncodings s → s.cfg = some c → s.agenda = [] →
    s.tc.inflight = true → s.tc.wstep = .wStart →
    ∃ k u v, Sys2Proof.core.run k s = .next u ∧ u.tc.wstep = .wDisable ∧ step u = .next v ∧
      lineLevel u c.enPin = (!c.invertEn) ∧ lineLevel v c.enPin = c.invertEn ∧
      v.now = s.now + totalMicros s.wave.entry + 9 * Config.u
end

