-- ==== Sys2Proof/Laws/Memory.lean ====
section
/-! SUPPORT. The laws of BUF and of the pulse memories: a read after a write, and the canonical form of BUF. -/

namespace Sys2Proof.Machine

/-! ### BUF -/

/-- Nothing is listed below a lower bound of the indices. -/
theorem Memory.read_below {m : Memory} {lo i : Nat} (h : Memory.wfFrom lo m = true) (hi : i < lo) :
    Memory.read m i = Config.unwrittenByte := by
  induction m generalizing lo with
  | nil => rfl
  | cons c m ih =>
    obtain ⟨a, v⟩ := c
    simp only [Memory.wfFrom, Bool.and_eq_true, decide_eq_true_eq] at h
    have hne : i ≠ a := by omega
    simp only [Memory.read, hne, if_false]
    exact ih h.2 (by omega)

/-- A canonical form above a bound is one above any lower bound. -/
theorem Memory.wfFrom_mono {m : Memory} {lo lo' : Nat} (h : Memory.wfFrom lo m = true) (hle : lo' ≤ lo) :
    Memory.wfFrom lo' m = true := by
  cases m with
  | nil => rfl
  | cons c m =>
    simp only [Memory.wfFrom, Bool.and_eq_true, decide_eq_true_eq] at h ⊢
    exact ⟨⟨by omega, h.1.2⟩, h.2⟩

/-- The byte written is the byte read. -/
theorem Memory.read_write_same {m : Memory} {lo i : Nat} (b : Byte) (h : Memory.wfFrom lo m = true) :
    Memory.read (Memory.write m i b) i = b := by
  induction m generalizing lo with
  | nil => by_cases hb : b = Config.unwrittenByte <;> simp [Memory.write, Memory.read, hb]
  | cons c m ih =>
    obtain ⟨a, v⟩ := c
    simp only [Memory.wfFrom, Bool.and_eq_true, decide_eq_true_eq] at h
    simp only [Memory.write]
    split
    · next hlt =>
      split
      · next hb =>
        have hne : i ≠ a := by omega
        simp only [Memory.read, hne, if_false]
        rw [hb]; exact Memory.read_below h.2 (by omega)
      · simp [Memory.read]
    · split
      · next hlt heq =>
        split
        · next hb => rw [hb]; exact Memory.read_below h.2 (by omega)
        · simp [Memory.read]
      · next hlt hne =>
        simp only [Memory.read, hne, if_false]
        exact ih h.2

/-- A write leaves every other byte alone. -/
theorem Memory.read_write_other {m : Memory} {lo i j : Nat} (b : Byte) (h : Memory.wfFrom lo m = true) (hij : j ≠ i) :
    Memory.read (Memory.write m i b) j = Memory.read m j := by
  induction m generalizing lo with
  | nil => by_cases hb : b = Config.unwrittenByte <;> simp [Memory.write, Memory.read, hb, hij]
  | cons c m ih =>
    obtain ⟨a, v⟩ := c
    simp only [Memory.wfFrom, Bool.and_eq_true, decide_eq_true_eq] at h
    simp only [Memory.write]
    split
    · split
      · rfl
      · simp [Memory.read, hij]
    · split
      · next hlt heq =>
        subst heq
        split
        · next hb => simp [Memory.read, hij]
        · simp [Memory.read, hij]
      · simp only [Memory.read]
        split
        · rfl
        · exact ih h.2

/-- A write keeps the canonical form. -/
theorem Memory.wfFrom_write {m : Memory} {lo i : Nat} (b : Byte) (h : Memory.wfFrom lo m = true) (hi : lo ≤ i) :
    Memory.wfFrom lo (Memory.write m i b) = true := by
  induction m generalizing lo with
  | nil =>
    by_cases hb : b = Config.unwrittenByte
    · simp [Memory.write, Memory.wfFrom, hb]
    · simp [Memory.write, Memory.wfFrom, hb, hi]
  | cons c m ih =>
    obtain ⟨a, v⟩ := c
    simp only [Memory.wfFrom, Bool.and_eq_true, decide_eq_true_eq, bne_iff_ne] at h
    simp only [Memory.write]
    split
    · next hlt =>
      split
      · simp [Memory.wfFrom, h.1.1, h.1.2, h.2]
      · next hb => simp [Memory.wfFrom, hi, hb, h.1.2, h.2]; omega
    · split
      · next hlt heq =>
        subst heq
        split
        · exact Memory.wfFrom_mono h.2 (by omega)
        · next hb => simp [Memory.wfFrom, hb, h.1.1, h.2]
      · next hlt hne =>
        simp [Memory.wfFrom, h.1.1, h.1.2, ih h.2 (by omega : a + 1 ≤ i)]

/-- A write keeps BUF canonical. -/
theorem Memory.wf_write {m : Memory} (i : Nat) (b : Byte) (h : Memory.wf m = true) :
    Memory.wf (Memory.write m i b) = true := Memory.wfFrom_write b h (Nat.zero_le i)

/-- Placing a stream keeps BUF canonical. -/
theorem Memory.wf_place {m : Memory} (bs : List Byte) (i : Nat) (h : Memory.wf m = true) :
    Memory.wf (Memory.place m i bs) = true := by
  induction bs generalizing m i with
  | nil => exact h
  | cons b bs ih => exact ih (i + 1) (Memory.wf_write i b h)

/-- A byte below the place a stream begins at is left alone. -/
theorem Memory.read_place_below {m : Memory} (bs : List Byte) (i j : Nat) (h : Memory.wf m = true) (hj : j < i) :
    Memory.read (Memory.place m i bs) j = Memory.read m j := by
  induction bs generalizing m i with
  | nil => rfl
  | cons b bs ih =>
    simp only [Memory.place]
    rw [ih (i + 1) (Memory.wf_write i b h) (by omega)]
    exact Memory.read_write_other b h (by omega)

/-- A stream placed at `i` is read back byte by byte. -/
theorem Memory.read_place {m : Memory} (bs : List Byte) (i k : Nat) (h : Memory.wf m = true) (hk : k < bs.length) :
    Memory.read (Memory.place m i bs) (i + k) = bs[k] := by
  induction bs generalizing m i k with
  | nil => simp at hk
  | cons b bs ih =>
    cases k with
    | zero =>
      simp only [Memory.place, Nat.add_zero, List.getElem_cons_zero]
      rw [Memory.read_place_below bs (i + 1) i (Memory.wf_write i b h) (by omega)]
      exact Memory.read_write_same b h
    | succ k =>
      simp only [Memory.place, List.getElem_cons_succ]
      rw [show i + (k + 1) = (i + 1) + k by omega]
      exact ih (i + 1) k (Memory.wf_write i b h) (by simpa using hk)

/-- Clearing the first bytes keeps BUF canonical. -/
theorem Memory.wfFrom_zeroPayload {m : Memory} {lo : Nat} (n : Nat) (h : Memory.wfFrom lo m = true) :
    Memory.wfFrom lo (zeroPayload n m) = true := by
  induction m generalizing lo with
  | nil => rfl
  | cons c m ih =>
    obtain ⟨a, v⟩ := c
    simp only [Memory.wfFrom, Bool.and_eq_true, decide_eq_true_eq] at h
    have ih' := ih h.2
    by_cases hn : n ≤ a
    · simp only [zeroPayload, List.filter_cons, hn, decide_true, if_true, Memory.wfFrom]
      simpa [h.1.1, h.1.2, zeroPayload] using ih'
    · simp only [zeroPayload, List.filter_cons, hn, decide_false]
      exact Memory.wfFrom_mono ih' (by omega)

/-- The payload read has the length asked for. -/
@[simp] theorem payload_length (s : State) (n : Nat) : (payload s n).length = n := by simp [payload]

/-- The payload depends on BUF alone. -/
theorem payload_congr {s t : State} (h : t.buf = s.buf) (n : Nat) : payload t n = payload s n := by
  simp [payload, h]

/-! ### The pulse memories -/

/-- Writing past the end: the record is read at its place, and the records between are unspecified. -/
theorem readRecord_writeRecord_nil (base k j : Nat) (r : Pulse) :
    (writeRecord base [] k r).getD j (Config.unwrittenPulse (base + j)) =
      if j = k then r else Config.unwrittenPulse (base + j) := by
  induction k generalizing base j with
  | zero => cases j <;> simp [writeRecord]
  | succ k ih =>
    cases j with
    | zero => simp [writeRecord]
    | succ j =>
      have := ih (base + 1) j
      rw [show base + 1 + j = base + (j + 1) by omega] at this
      simpa [writeRecord] using this

/-- A record memory read after a write, at any index. -/
theorem getD_writeRecord (base : Nat) (rs : List Pulse) (k j : Nat) (r : Pulse) :
    (writeRecord base rs k r).getD j (Config.unwrittenPulse (base + j)) =
      if j = k then r else rs.getD j (Config.unwrittenPulse (base + j)) := by
  induction rs generalizing base k j with
  | nil => simpa using readRecord_writeRecord_nil base k j r
  | cons q rs ih =>
    cases k with
    | zero => cases j <;> simp [writeRecord]
    | succ k =>
      cases j with
      | zero => simp [writeRecord]
      | succ j =>
        have := ih (base + 1) k j
        rw [show base + 1 + j = base + (j + 1) by omega] at this
        simpa [writeRecord] using this

/-- Record `k` is read back after it is written, and every other record is as before. -/
theorem readRecord_writeRecord (rs : List Pulse) (k j : Nat) (r : Pulse) :
    readRecord (writeRecord 0 rs k r) j = if j = k then r else readRecord rs j := by
  have := getD_writeRecord 0 rs k j r
  simpa [readRecord] using this

/-- Writing at the end appends. -/
theorem writeRecord_length (base : Nat) (rs : List Pulse) (r : Pulse) :
    writeRecord base rs rs.length r = rs ++ [r] := by
  induction rs generalizing base with
  | nil => rfl
  | cons q rs ih => simp [writeRecord, ih]

end Sys2Proof.Machine
end

