-- ==== Sys2Proof/Laws/State.lean ====
section
/-! SUPPORT. What each update of the state does to each field, one lemma a field and an update, each true by definition, so
that no later proof unfolds a record update. -/

namespace Sys2Proof.Machine

variable (s : State)

/-! `setEngUp` -/

@[simp] theorem setEngUp_cfg (b : Bool) : (setEngUp b s).cfg = s.cfg := rfl
@[simp] theorem setEngUp_engUp (b : Bool) : (setEngUp b s).engUp = b := rfl
@[simp] theorem setEngUp_gpio (b : Bool) : (setEngUp b s).gpio = s.gpio := rfl
@[simp] theorem setEngUp_ps (b : Bool) : (setEngUp b s).ps = s.ps := rfl
@[simp] theorem setEngUp_wave (b : Bool) : (setEngUp b s).wave = s.wave := rfl
@[simp] theorem setEngUp_seq (b : Bool) : (setEngUp b s).seq = s.seq := rfl
@[simp] theorem setEngUp_tc (b : Bool) : (setEngUp b s).tc = s.tc := rfl
@[simp] theorem setEngUp_buf (b : Bool) : (setEngUp b s).buf = s.buf := rfl
@[simp] theorem setEngUp_env (b : Bool) : (setEngUp b s).env = s.env := rfl
@[simp] theorem setEngUp_callResult (b : Bool) : (setEngUp b s).callResult = s.callResult := rfl
@[simp] theorem setEngUp_agenda (b : Bool) : (setEngUp b s).agenda = s.agenda := rfl
@[simp] theorem setEngUp_trace (b : Bool) : (setEngUp b s).trace = s.trace := rfl
@[simp] theorem setEngUp_now (b : Bool) : (setEngUp b s).now = s.now := rfl

/-! `setInflight` -/

@[simp] theorem setInflight_cfg (b : Bool) : (setInflight b s).cfg = s.cfg := rfl
@[simp] theorem setInflight_engUp (b : Bool) : (setInflight b s).engUp = s.engUp := rfl
@[simp] theorem setInflight_gpio (b : Bool) : (setInflight b s).gpio = s.gpio := rfl
@[simp] theorem setInflight_ps (b : Bool) : (setInflight b s).ps = s.ps := rfl
@[simp] theorem setInflight_wave (b : Bool) : (setInflight b s).wave = s.wave := rfl
@[simp] theorem setInflight_seq (b : Bool) : (setInflight b s).seq = s.seq := rfl
@[simp] theorem setInflight_tc (b : Bool) : (setInflight b s).tc = { s.tc with inflight := b } := rfl
@[simp] theorem setInflight_buf (b : Bool) : (setInflight b s).buf = s.buf := rfl
@[simp] theorem setInflight_env (b : Bool) : (setInflight b s).env = s.env := rfl
@[simp] theorem setInflight_callResult (b : Bool) : (setInflight b s).callResult = s.callResult := rfl
@[simp] theorem setInflight_agenda (b : Bool) : (setInflight b s).agenda = s.agenda := rfl
@[simp] theorem setInflight_trace (b : Bool) : (setInflight b s).trace = s.trace := rfl
@[simp] theorem setInflight_now (b : Bool) : (setInflight b s).now = s.now := rfl

/-! `setBusy` -/

@[simp] theorem setBusy_cfg (b : Bool) : (setBusy b s).cfg = s.cfg := rfl
@[simp] theorem setBusy_engUp (b : Bool) : (setBusy b s).engUp = s.engUp := rfl
@[simp] theorem setBusy_gpio (b : Bool) : (setBusy b s).gpio = s.gpio := rfl
@[simp] theorem setBusy_ps (b : Bool) : (setBusy b s).ps = s.ps := rfl
@[simp] theorem setBusy_wave (b : Bool) : (setBusy b s).wave = s.wave := rfl
@[simp] theorem setBusy_seq (b : Bool) : (setBusy b s).seq = { s.seq with busy := b } := rfl
@[simp] theorem setBusy_tc (b : Bool) : (setBusy b s).tc = s.tc := rfl
@[simp] theorem setBusy_buf (b : Bool) : (setBusy b s).buf = s.buf := rfl
@[simp] theorem setBusy_env (b : Bool) : (setBusy b s).env = s.env := rfl
@[simp] theorem setBusy_callResult (b : Bool) : (setBusy b s).callResult = s.callResult := rfl
@[simp] theorem setBusy_agenda (b : Bool) : (setBusy b s).agenda = s.agenda := rfl
@[simp] theorem setBusy_trace (b : Bool) : (setBusy b s).trace = s.trace := rfl
@[simp] theorem setBusy_now (b : Bool) : (setBusy b s).now = s.now := rfl

/-! `setPsValid` -/

@[simp] theorem setPsValid_cfg (b : Bool) : (setPsValid b s).cfg = s.cfg := rfl
@[simp] theorem setPsValid_engUp (b : Bool) : (setPsValid b s).engUp = s.engUp := rfl
@[simp] theorem setPsValid_gpio (b : Bool) : (setPsValid b s).gpio = s.gpio := rfl
@[simp] theorem setPsValid_ps (b : Bool) : (setPsValid b s).ps = { s.ps with valid := b } := rfl
@[simp] theorem setPsValid_wave (b : Bool) : (setPsValid b s).wave = s.wave := rfl
@[simp] theorem setPsValid_seq (b : Bool) : (setPsValid b s).seq = s.seq := rfl
@[simp] theorem setPsValid_tc (b : Bool) : (setPsValid b s).tc = s.tc := rfl
@[simp] theorem setPsValid_buf (b : Bool) : (setPsValid b s).buf = s.buf := rfl
@[simp] theorem setPsValid_env (b : Bool) : (setPsValid b s).env = s.env := rfl
@[simp] theorem setPsValid_callResult (b : Bool) : (setPsValid b s).callResult = s.callResult := rfl
@[simp] theorem setPsValid_agenda (b : Bool) : (setPsValid b s).agenda = s.agenda := rfl
@[simp] theorem setPsValid_trace (b : Bool) : (setPsValid b s).trace = s.trace := rfl
@[simp] theorem setPsValid_now (b : Bool) : (setPsValid b s).now = s.now := rfl

/-! `setWaveValid` -/

@[simp] theorem setWaveValid_cfg (b : Bool) : (setWaveValid b s).cfg = s.cfg := rfl
@[simp] theorem setWaveValid_engUp (b : Bool) : (setWaveValid b s).engUp = s.engUp := rfl
@[simp] theorem setWaveValid_gpio (b : Bool) : (setWaveValid b s).gpio = s.gpio := rfl
@[simp] theorem setWaveValid_ps (b : Bool) : (setWaveValid b s).ps = s.ps := rfl
@[simp] theorem setWaveValid_wave (b : Bool) : (setWaveValid b s).wave = { s.wave with valid := b } := rfl
@[simp] theorem setWaveValid_seq (b : Bool) : (setWaveValid b s).seq = s.seq := rfl
@[simp] theorem setWaveValid_tc (b : Bool) : (setWaveValid b s).tc = s.tc := rfl
@[simp] theorem setWaveValid_buf (b : Bool) : (setWaveValid b s).buf = s.buf := rfl
@[simp] theorem setWaveValid_env (b : Bool) : (setWaveValid b s).env = s.env := rfl
@[simp] theorem setWaveValid_callResult (b : Bool) : (setWaveValid b s).callResult = s.callResult := rfl
@[simp] theorem setWaveValid_agenda (b : Bool) : (setWaveValid b s).agenda = s.agenda := rfl
@[simp] theorem setWaveValid_trace (b : Bool) : (setWaveValid b s).trace = s.trace := rfl
@[simp] theorem setWaveValid_now (b : Bool) : (setWaveValid b s).now = s.now := rfl

/-! `setWstep` -/

@[simp] theorem setWstep_cfg (w : WorkerStep) : (setWstep w s).cfg = s.cfg := rfl
@[simp] theorem setWstep_engUp (w : WorkerStep) : (setWstep w s).engUp = s.engUp := rfl
@[simp] theorem setWstep_gpio (w : WorkerStep) : (setWstep w s).gpio = s.gpio := rfl
@[simp] theorem setWstep_ps (w : WorkerStep) : (setWstep w s).ps = s.ps := rfl
@[simp] theorem setWstep_wave (w : WorkerStep) : (setWstep w s).wave = s.wave := rfl
@[simp] theorem setWstep_seq (w : WorkerStep) : (setWstep w s).seq = s.seq := rfl
@[simp] theorem setWstep_tc (w : WorkerStep) : (setWstep w s).tc = { s.tc with wstep := w } := rfl
@[simp] theorem setWstep_buf (w : WorkerStep) : (setWstep w s).buf = s.buf := rfl
@[simp] theorem setWstep_env (w : WorkerStep) : (setWstep w s).env = s.env := rfl
@[simp] theorem setWstep_callResult (w : WorkerStep) : (setWstep w s).callResult = s.callResult := rfl
@[simp] theorem setWstep_agenda (w : WorkerStep) : (setWstep w s).agenda = s.agenda := rfl
@[simp] theorem setWstep_trace (w : WorkerStep) : (setWstep w s).trace = s.trace := rfl
@[simp] theorem setWstep_now (w : WorkerStep) : (setWstep w s).now = s.now := rfl

/-! `setLook` -/

@[simp] theorem setLook_cfg (n : Nat) : (setLook n s).cfg = s.cfg := rfl
@[simp] theorem setLook_engUp (n : Nat) : (setLook n s).engUp = s.engUp := rfl
@[simp] theorem setLook_gpio (n : Nat) : (setLook n s).gpio = s.gpio := rfl
@[simp] theorem setLook_ps (n : Nat) : (setLook n s).ps = s.ps := rfl
@[simp] theorem setLook_wave (n : Nat) : (setLook n s).wave = s.wave := rfl
@[simp] theorem setLook_seq (n : Nat) : (setLook n s).seq = s.seq := rfl
@[simp] theorem setLook_tc (n : Nat) : (setLook n s).tc = { s.tc with look := n * Config.u } := rfl
@[simp] theorem setLook_buf (n : Nat) : (setLook n s).buf = s.buf := rfl
@[simp] theorem setLook_env (n : Nat) : (setLook n s).env = s.env := rfl
@[simp] theorem setLook_callResult (n : Nat) : (setLook n s).callResult = s.callResult := rfl
@[simp] theorem setLook_agenda (n : Nat) : (setLook n s).agenda = s.agenda := rfl
@[simp] theorem setLook_trace (n : Nat) : (setLook n s).trace = s.trace := rfl
@[simp] theorem setLook_now (n : Nat) : (setLook n s).now = s.now := rfl

/-! `setPsRecord` -/

@[simp] theorem setPsRecord_cfg (k : Nat) (r : Pulse) : (setPsRecord k r s).cfg = s.cfg := rfl
@[simp] theorem setPsRecord_engUp (k : Nat) (r : Pulse) : (setPsRecord k r s).engUp = s.engUp := rfl
@[simp] theorem setPsRecord_gpio (k : Nat) (r : Pulse) : (setPsRecord k r s).gpio = s.gpio := rfl
@[simp] theorem setPsRecord_ps (k : Nat) (r : Pulse) : (setPsRecord k r s).ps = { s.ps with entry := writeRecord 0 s.ps.entry k r } := rfl
@[simp] theorem setPsRecord_wave (k : Nat) (r : Pulse) : (setPsRecord k r s).wave = s.wave := rfl
@[simp] theorem setPsRecord_seq (k : Nat) (r : Pulse) : (setPsRecord k r s).seq = s.seq := rfl
@[simp] theorem setPsRecord_tc (k : Nat) (r : Pulse) : (setPsRecord k r s).tc = s.tc := rfl
@[simp] theorem setPsRecord_buf (k : Nat) (r : Pulse) : (setPsRecord k r s).buf = s.buf := rfl
@[simp] theorem setPsRecord_env (k : Nat) (r : Pulse) : (setPsRecord k r s).env = s.env := rfl
@[simp] theorem setPsRecord_callResult (k : Nat) (r : Pulse) : (setPsRecord k r s).callResult = s.callResult := rfl
@[simp] theorem setPsRecord_agenda (k : Nat) (r : Pulse) : (setPsRecord k r s).agenda = s.agenda := rfl
@[simp] theorem setPsRecord_trace (k : Nat) (r : Pulse) : (setPsRecord k r s).trace = s.trace := rfl
@[simp] theorem setPsRecord_now (k : Nat) (r : Pulse) : (setPsRecord k r s).now = s.now := rfl

/-! `setLevel` -/

@[simp] theorem setLevel_cfg (p : Pin) (b : Bool) : (setLevel p b s).cfg = s.cfg := rfl
@[simp] theorem setLevel_engUp (p : Pin) (b : Bool) : (setLevel p b s).engUp = s.engUp := rfl
@[simp] theorem setLevel_ps (p : Pin) (b : Bool) : (setLevel p b s).ps = s.ps := rfl
@[simp] theorem setLevel_wave (p : Pin) (b : Bool) : (setLevel p b s).wave = s.wave := rfl
@[simp] theorem setLevel_seq (p : Pin) (b : Bool) : (setLevel p b s).seq = s.seq := rfl
@[simp] theorem setLevel_tc (p : Pin) (b : Bool) : (setLevel p b s).tc = s.tc := rfl
@[simp] theorem setLevel_buf (p : Pin) (b : Bool) : (setLevel p b s).buf = s.buf := rfl
@[simp] theorem setLevel_env (p : Pin) (b : Bool) : (setLevel p b s).env = s.env := rfl
@[simp] theorem setLevel_callResult (p : Pin) (b : Bool) : (setLevel p b s).callResult = s.callResult := rfl
@[simp] theorem setLevel_agenda (p : Pin) (b : Bool) : (setLevel p b s).agenda = s.agenda := rfl
@[simp] theorem setLevel_trace (p : Pin) (b : Bool) : (setLevel p b s).trace = s.trace := rfl
@[simp] theorem setLevel_now (p : Pin) (b : Bool) : (setLevel p b s).now = s.now := rfl

/-! `setMode` -/

@[simp] theorem setMode_cfg (p : Pin) (m : PinMode) : (setMode p m s).cfg = s.cfg := rfl
@[simp] theorem setMode_engUp (p : Pin) (m : PinMode) : (setMode p m s).engUp = s.engUp := rfl
@[simp] theorem setMode_ps (p : Pin) (m : PinMode) : (setMode p m s).ps = s.ps := rfl
@[simp] theorem setMode_wave (p : Pin) (m : PinMode) : (setMode p m s).wave = s.wave := rfl
@[simp] theorem setMode_seq (p : Pin) (m : PinMode) : (setMode p m s).seq = s.seq := rfl
@[simp] theorem setMode_tc (p : Pin) (m : PinMode) : (setMode p m s).tc = s.tc := rfl
@[simp] theorem setMode_buf (p : Pin) (m : PinMode) : (setMode p m s).buf = s.buf := rfl
@[simp] theorem setMode_env (p : Pin) (m : PinMode) : (setMode p m s).env = s.env := rfl
@[simp] theorem setMode_callResult (p : Pin) (m : PinMode) : (setMode p m s).callResult = s.callResult := rfl
@[simp] theorem setMode_agenda (p : Pin) (m : PinMode) : (setMode p m s).agenda = s.agenda := rfl
@[simp] theorem setMode_trace (p : Pin) (m : PinMode) : (setMode p m s).trace = s.trace := rfl
@[simp] theorem setMode_now (p : Pin) (m : PinMode) : (setMode p m s).now = s.now := rfl

/-! `applyMasks` -/

@[simp] theorem applyMasks_cfg (set clr : Mask) : (applyMasks set clr s).cfg = s.cfg := rfl
@[simp] theorem applyMasks_engUp (set clr : Mask) : (applyMasks set clr s).engUp = s.engUp := rfl
@[simp] theorem applyMasks_ps (set clr : Mask) : (applyMasks set clr s).ps = s.ps := rfl
@[simp] theorem applyMasks_wave (set clr : Mask) : (applyMasks set clr s).wave = s.wave := rfl
@[simp] theorem applyMasks_seq (set clr : Mask) : (applyMasks set clr s).seq = s.seq := rfl
@[simp] theorem applyMasks_tc (set clr : Mask) : (applyMasks set clr s).tc = s.tc := rfl
@[simp] theorem applyMasks_buf (set clr : Mask) : (applyMasks set clr s).buf = s.buf := rfl
@[simp] theorem applyMasks_env (set clr : Mask) : (applyMasks set clr s).env = s.env := rfl
@[simp] theorem applyMasks_callResult (set clr : Mask) : (applyMasks set clr s).callResult = s.callResult := rfl
@[simp] theorem applyMasks_agenda (set clr : Mask) : (applyMasks set clr s).agenda = s.agenda := rfl
@[simp] theorem applyMasks_trace (set clr : Mask) : (applyMasks set clr s).trace = s.trace := rfl
@[simp] theorem applyMasks_now (set clr : Mask) : (applyMasks set clr s).now = s.now := rfl

/-! `emit` -/

@[simp] theorem emit_cfg (e : Event) : (emit e s).cfg = s.cfg := rfl
@[simp] theorem emit_engUp (e : Event) : (emit e s).engUp = s.engUp := rfl
@[simp] theorem emit_gpio (e : Event) : (emit e s).gpio = s.gpio := rfl
@[simp] theorem emit_ps (e : Event) : (emit e s).ps = s.ps := rfl
@[simp] theorem emit_wave (e : Event) : (emit e s).wave = s.wave := rfl
@[simp] theorem emit_seq (e : Event) : (emit e s).seq = s.seq := rfl
@[simp] theorem emit_tc (e : Event) : (emit e s).tc = s.tc := rfl
@[simp] theorem emit_buf (e : Event) : (emit e s).buf = s.buf := rfl
@[simp] theorem emit_env (e : Event) : (emit e s).env = s.env := rfl
@[simp] theorem emit_callResult (e : Event) : (emit e s).callResult = s.callResult := rfl
@[simp] theorem emit_agenda (e : Event) : (emit e s).agenda = s.agenda := rfl
@[simp] theorem emit_trace (e : Event) : (emit e s).trace = s.trace ++ [e] := rfl
@[simp] theorem emit_now (e : Event) : (emit e s).now = s.now := rfl

/-! `respond` -/

@[simp] theorem respond_cfg (c : Command) (e : Code) : (respond c e s).cfg = s.cfg := rfl
@[simp] theorem respond_engUp (c : Command) (e : Code) : (respond c e s).engUp = s.engUp := rfl
@[simp] theorem respond_gpio (c : Command) (e : Code) : (respond c e s).gpio = s.gpio := rfl
@[simp] theorem respond_ps (c : Command) (e : Code) : (respond c e s).ps = s.ps := rfl
@[simp] theorem respond_wave (c : Command) (e : Code) : (respond c e s).wave = s.wave := rfl
@[simp] theorem respond_seq (c : Command) (e : Code) : (respond c e s).seq = s.seq := rfl
@[simp] theorem respond_tc (c : Command) (e : Code) : (respond c e s).tc = s.tc := rfl
@[simp] theorem respond_buf (c : Command) (e : Code) : (respond c e s).buf = s.buf := rfl
@[simp] theorem respond_env (c : Command) (e : Code) : (respond c e s).env = s.env := rfl
@[simp] theorem respond_callResult (c : Command) (e : Code) : (respond c e s).callResult = s.callResult := rfl
@[simp] theorem respond_agenda (c : Command) (e : Code) : (respond c e s).agenda = s.agenda := rfl
@[simp] theorem respond_trace (c : Command) (e : Code) : (respond c e s).trace = s.trace ++ [.resp c e] := rfl
@[simp] theorem respond_now (c : Command) (e : Code) : (respond c e s).now = s.now := rfl

/-! `raise` -/

@[simp] theorem raise_cfg (c : Command) (e : Code) : (raise c e s).cfg = s.cfg := rfl
@[simp] theorem raise_engUp (c : Command) (e : Code) : (raise c e s).engUp = s.engUp := rfl
@[simp] theorem raise_gpio (c : Command) (e : Code) : (raise c e s).gpio = s.gpio := rfl
@[simp] theorem raise_ps (c : Command) (e : Code) : (raise c e s).ps = s.ps := rfl
@[simp] theorem raise_wave (c : Command) (e : Code) : (raise c e s).wave = s.wave := rfl
@[simp] theorem raise_seq (c : Command) (e : Code) : (raise c e s).seq = s.seq := rfl
@[simp] theorem raise_tc (c : Command) (e : Code) : (raise c e s).tc = s.tc := rfl
@[simp] theorem raise_buf (c : Command) (e : Code) : (raise c e s).buf = s.buf := rfl
@[simp] theorem raise_env (c : Command) (e : Code) : (raise c e s).env = s.env := rfl
@[simp] theorem raise_callResult (c : Command) (e : Code) : (raise c e s).callResult = s.callResult := rfl
@[simp] theorem raise_agenda (c : Command) (e : Code) : (raise c e s).agenda = s.agenda := rfl
@[simp] theorem raise_trace (c : Command) (e : Code) : (raise c e s).trace = s.trace ++ [.resp c e] := rfl
@[simp] theorem raise_now (c : Command) (e : Code) : (raise c e s).now = s.now := rfl

/-! `answer` -/

@[simp] theorem answer_cfg (r : CallResult) : (answer r s).cfg = s.cfg := rfl
@[simp] theorem answer_engUp (r : CallResult) : (answer r s).engUp = s.engUp := rfl
@[simp] theorem answer_gpio (r : CallResult) : (answer r s).gpio = s.gpio := rfl
@[simp] theorem answer_ps (r : CallResult) : (answer r s).ps = s.ps := rfl
@[simp] theorem answer_wave (r : CallResult) : (answer r s).wave = s.wave := rfl
@[simp] theorem answer_seq (r : CallResult) : (answer r s).seq = s.seq := rfl
@[simp] theorem answer_tc (r : CallResult) : (answer r s).tc = s.tc := rfl
@[simp] theorem answer_buf (r : CallResult) : (answer r s).buf = s.buf := rfl
@[simp] theorem answer_env (r : CallResult) : (answer r s).env = s.env := rfl
@[simp] theorem answer_callResult (r : CallResult) : (answer r s).callResult = some r := rfl
@[simp] theorem answer_agenda (r : CallResult) : (answer r s).agenda = s.agenda := rfl
@[simp] theorem answer_trace (r : CallResult) : (answer r s).trace = s.trace := rfl
@[simp] theorem answer_now (r : CallResult) : (answer r s).now = s.now := rfl

/-! `takePinModeAnswer` -/

@[simp] theorem takePinModeAnswer_cfg : (takePinModeAnswer s).cfg = s.cfg := rfl
@[simp] theorem takePinModeAnswer_engUp : (takePinModeAnswer s).engUp = s.engUp := rfl
@[simp] theorem takePinModeAnswer_gpio : (takePinModeAnswer s).gpio = s.gpio := rfl
@[simp] theorem takePinModeAnswer_ps : (takePinModeAnswer s).ps = s.ps := rfl
@[simp] theorem takePinModeAnswer_wave : (takePinModeAnswer s).wave = s.wave := rfl
@[simp] theorem takePinModeAnswer_seq : (takePinModeAnswer s).seq = s.seq := rfl
@[simp] theorem takePinModeAnswer_tc : (takePinModeAnswer s).tc = s.tc := rfl
@[simp] theorem takePinModeAnswer_buf : (takePinModeAnswer s).buf = s.buf := rfl
@[simp] theorem takePinModeAnswer_env : (takePinModeAnswer s).env = { s.env with pinModeOk := s.env.pinModeOk.tail } := rfl
@[simp] theorem takePinModeAnswer_callResult : (takePinModeAnswer s).callResult = s.callResult := rfl
@[simp] theorem takePinModeAnswer_agenda : (takePinModeAnswer s).agenda = s.agenda := rfl
@[simp] theorem takePinModeAnswer_trace : (takePinModeAnswer s).trace = s.trace := rfl
@[simp] theorem takePinModeAnswer_now : (takePinModeAnswer s).now = s.now := rfl

/-! `drivePin` -/

@[simp] theorem drivePin_cfg (p : Pin) (b : Bool) : (drivePin p b s).cfg = s.cfg := rfl
@[simp] theorem drivePin_engUp (p : Pin) (b : Bool) : (drivePin p b s).engUp = s.engUp := rfl
@[simp] theorem drivePin_gpio (p : Pin) (b : Bool) : (drivePin p b s).gpio = (setLevel p b s).gpio := rfl
@[simp] theorem drivePin_ps (p : Pin) (b : Bool) : (drivePin p b s).ps = s.ps := rfl
@[simp] theorem drivePin_wave (p : Pin) (b : Bool) : (drivePin p b s).wave = s.wave := rfl
@[simp] theorem drivePin_seq (p : Pin) (b : Bool) : (drivePin p b s).seq = s.seq := rfl
@[simp] theorem drivePin_tc (p : Pin) (b : Bool) : (drivePin p b s).tc = s.tc := rfl
@[simp] theorem drivePin_buf (p : Pin) (b : Bool) : (drivePin p b s).buf = s.buf := rfl
@[simp] theorem drivePin_env (p : Pin) (b : Bool) : (drivePin p b s).env = s.env := rfl
@[simp] theorem drivePin_callResult (p : Pin) (b : Bool) : (drivePin p b s).callResult = s.callResult := rfl
@[simp] theorem drivePin_agenda (p : Pin) (b : Bool) : (drivePin p b s).agenda = s.agenda := rfl
@[simp] theorem drivePin_trace (p : Pin) (b : Bool) : (drivePin p b s).trace = s.trace ++ [.pin p b] := rfl
@[simp] theorem drivePin_now (p : Pin) (b : Bool) : (drivePin p b s).now = s.now := rfl

/-! `applyRecord` -/

@[simp] theorem applyRecord_cfg (r : Pulse) : (applyRecord r s).cfg = s.cfg := rfl
@[simp] theorem applyRecord_engUp (r : Pulse) : (applyRecord r s).engUp = s.engUp := rfl
@[simp] theorem applyRecord_gpio (r : Pulse) : (applyRecord r s).gpio = (applyMasks r.set r.clr s).gpio := rfl
@[simp] theorem applyRecord_ps (r : Pulse) : (applyRecord r s).ps = s.ps := rfl
@[simp] theorem applyRecord_wave (r : Pulse) : (applyRecord r s).wave = s.wave := rfl
@[simp] theorem applyRecord_seq (r : Pulse) : (applyRecord r s).seq = { s.seq with rem := r.dur.toNat, idx := s.seq.idx + 1 } := rfl
@[simp] theorem applyRecord_tc (r : Pulse) : (applyRecord r s).tc = s.tc := rfl
@[simp] theorem applyRecord_buf (r : Pulse) : (applyRecord r s).buf = s.buf := rfl
@[simp] theorem applyRecord_env (r : Pulse) : (applyRecord r s).env = s.env := rfl
@[simp] theorem applyRecord_callResult (r : Pulse) : (applyRecord r s).callResult = s.callResult := rfl
@[simp] theorem applyRecord_agenda (r : Pulse) : (applyRecord r s).agenda = s.agenda := rfl
@[simp] theorem applyRecord_trace (r : Pulse) : (applyRecord r s).trace = s.trace ++ [.pulse s.seq.idx r.set r.clr r.dur] := rfl
@[simp] theorem applyRecord_now (r : Pulse) : (applyRecord r s).now = s.now := rfl

/-! `elapse` -/

@[simp] theorem elapse_cfg (n : Nat) : (elapse n s).cfg = s.cfg := rfl
@[simp] theorem elapse_engUp (n : Nat) : (elapse n s).engUp = s.engUp := rfl
@[simp] theorem elapse_gpio (n : Nat) : (elapse n s).gpio = s.gpio := rfl
@[simp] theorem elapse_ps (n : Nat) : (elapse n s).ps = s.ps := rfl
@[simp] theorem elapse_wave (n : Nat) : (elapse n s).wave = s.wave := rfl
@[simp] theorem elapse_seq (n : Nat) : (elapse n s).seq = { s.seq with rem := s.seq.rem - elapsible n s } := rfl
@[simp] theorem elapse_tc (n : Nat) : (elapse n s).tc = { s.tc with look := s.tc.look - elapsible n s } := rfl
@[simp] theorem elapse_buf (n : Nat) : (elapse n s).buf = s.buf := rfl
@[simp] theorem elapse_env (n : Nat) : (elapse n s).env = s.env := rfl
@[simp] theorem elapse_callResult (n : Nat) : (elapse n s).callResult = s.callResult := rfl
@[simp] theorem elapse_agenda (n : Nat) : (elapse n s).agenda = s.agenda := rfl
@[simp] theorem elapse_trace (n : Nat) : (elapse n s).trace = s.trace := rfl
@[simp] theorem elapse_now (n : Nat) : (elapse n s).now = s.now + elapsible n s := rfl

/-! `seqFinish` -/

@[simp] theorem seqFinish_cfg : (seqFinish s).cfg = s.cfg := rfl
@[simp] theorem seqFinish_engUp : (seqFinish s).engUp = s.engUp := rfl
@[simp] theorem seqFinish_gpio : (seqFinish s).gpio = s.gpio := rfl
@[simp] theorem seqFinish_ps : (seqFinish s).ps = s.ps := rfl
@[simp] theorem seqFinish_wave : (seqFinish s).wave = s.wave := rfl
@[simp] theorem seqFinish_seq : (seqFinish s).seq = { s.seq with busy := false } := rfl
@[simp] theorem seqFinish_tc : (seqFinish s).tc = s.tc := rfl
@[simp] theorem seqFinish_buf : (seqFinish s).buf = s.buf := rfl
@[simp] theorem seqFinish_env : (seqFinish s).env = s.env := rfl
@[simp] theorem seqFinish_callResult : (seqFinish s).callResult = s.callResult := rfl
@[simp] theorem seqFinish_agenda : (seqFinish s).agenda = s.agenda := rfl
@[simp] theorem seqFinish_trace : (seqFinish s).trace = s.trace ++ [.idle] := rfl
@[simp] theorem seqFinish_now : (seqFinish s).now = s.now := rfl

/-! `takeEngineAnswer` -/

@[simp] theorem takeEngineAnswer_cfg : (takeEngineAnswer s).cfg = s.cfg := by unfold takeEngineAnswer; split <;> rfl
@[simp] theorem takeEngineAnswer_engUp : (takeEngineAnswer s).engUp = s.engUp := by unfold takeEngineAnswer; split <;> rfl
@[simp] theorem takeEngineAnswer_gpio : (takeEngineAnswer s).gpio = s.gpio := by unfold takeEngineAnswer; split <;> rfl
@[simp] theorem takeEngineAnswer_ps : (takeEngineAnswer s).ps = s.ps := by unfold takeEngineAnswer; split <;> rfl
@[simp] theorem takeEngineAnswer_wave : (takeEngineAnswer s).wave = s.wave := by unfold takeEngineAnswer; split <;> rfl
@[simp] theorem takeEngineAnswer_seq : (takeEngineAnswer s).seq = s.seq := by unfold takeEngineAnswer; split <;> rfl
@[simp] theorem takeEngineAnswer_tc : (takeEngineAnswer s).tc = s.tc := by unfold takeEngineAnswer; split <;> rfl
@[simp] theorem takeEngineAnswer_buf : (takeEngineAnswer s).buf = s.buf := by unfold takeEngineAnswer; split <;> rfl
@[simp] theorem takeEngineAnswer_callResult : (takeEngineAnswer s).callResult = s.callResult := by unfold takeEngineAnswer; split <;> rfl
@[simp] theorem takeEngineAnswer_agenda : (takeEngineAnswer s).agenda = s.agenda := by unfold takeEngineAnswer; split <;> rfl
@[simp] theorem takeEngineAnswer_trace : (takeEngineAnswer s).trace = s.trace := by unfold takeEngineAnswer; split <;> rfl
@[simp] theorem takeEngineAnswer_now : (takeEngineAnswer s).now = s.now := by unfold takeEngineAnswer; split <;> rfl

/-! `afterReadConfig` -/

@[simp] theorem afterReadConfig_cfg : (afterReadConfig s).cfg = s.cfg := by unfold afterReadConfig; split <;> rfl
@[simp] theorem afterReadConfig_engUp : (afterReadConfig s).engUp = s.engUp := by unfold afterReadConfig; split <;> rfl
@[simp] theorem afterReadConfig_gpio : (afterReadConfig s).gpio = s.gpio := by unfold afterReadConfig; split <;> rfl
@[simp] theorem afterReadConfig_ps : (afterReadConfig s).ps = s.ps := by unfold afterReadConfig; split <;> rfl
@[simp] theorem afterReadConfig_wave : (afterReadConfig s).wave = s.wave := by unfold afterReadConfig; split <;> rfl
@[simp] theorem afterReadConfig_seq : (afterReadConfig s).seq = s.seq := by unfold afterReadConfig; split <;> rfl
@[simp] theorem afterReadConfig_tc : (afterReadConfig s).tc = s.tc := by unfold afterReadConfig; split <;> rfl
@[simp] theorem afterReadConfig_buf : (afterReadConfig s).buf = s.buf := by unfold afterReadConfig; split <;> rfl
@[simp] theorem afterReadConfig_callResult : (afterReadConfig s).callResult = s.callResult := by unfold afterReadConfig; split <;> rfl
@[simp] theorem afterReadConfig_agenda : (afterReadConfig s).agenda = s.agenda := by unfold afterReadConfig; split <;> rfl
@[simp] theorem afterReadConfig_trace : (afterReadConfig s).trace = s.trace := by unfold afterReadConfig; split <;> rfl
@[simp] theorem afterReadConfig_now : (afterReadConfig s).now = s.now := by unfold afterReadConfig; split <;> rfl

/-- With a configuration, reading it changes nothing. -/
theorem afterReadConfig_of_cfg {c : PinConfig} (h : s.cfg = some c) : afterReadConfig s = s := by simp [afterReadConfig, h]

/-- With a configuration, the registers hold it. -/
theorem readConfig_of_cfg {c : PinConfig} (h : s.cfg = some c) : readConfig s = c := by simp [readConfig, h]

@[simp] theorem takeEngineAnswer_env_pinModeOk : (takeEngineAnswer s).env.pinModeOk = s.env.pinModeOk := by
  unfold takeEngineAnswer; split <;> rfl

/-! The GPIO bank, line by line. -/

@[simp] theorem lineLevel_setLevel (p q : Pin) (b : Bool) :
    lineLevel (setLevel p b s) q = if q = p then b else lineLevel s q := by
  unfold lineLevel setLevel
  by_cases h : q = p
  · subst h; simp
  · have : p.val ≠ q.val := fun e => h (Fin.ext e.symm)
    simp [h, this]

@[simp] theorem lineMode_setLevel (p q : Pin) (b : Bool) : lineMode (setLevel p b s) q = lineMode s q := by
  unfold lineMode setLevel
  by_cases h : q = p
  · subst h; simp
  · have : p.val ≠ q.val := fun e => h (Fin.ext e.symm)
    simp [this]

@[simp] theorem lineMode_setMode (p q : Pin) (m : PinMode) :
    lineMode (setMode p m s) q = if q = p then m else lineMode s q := by
  unfold lineMode setMode
  by_cases h : q = p
  · subst h; simp
  · have : p.val ≠ q.val := fun e => h (Fin.ext e.symm)
    simp [h, this]

@[simp] theorem lineLevel_setMode (p q : Pin) (m : PinMode) : lineLevel (setMode p m s) q = lineLevel s q := by
  unfold lineLevel setMode
  by_cases h : q = p
  · subst h; simp
  · have : p.val ≠ q.val := fun e => h (Fin.ext e.symm)
    simp [this]

@[simp] theorem lineLevel_applyMasks (set clr : Mask) (q : Pin) :
    lineLevel (applyMasks set clr s) q =
      maskedLevel set clr q (lineLevel s q) := by
  unfold lineLevel applyMasks maskedBank
  simp

@[simp] theorem lineMode_applyMasks (set clr : Mask) (q : Pin) :
    lineMode (applyMasks set clr s) q = lineMode s q := by
  unfold lineMode applyMasks maskedBank
  simp

/-- The level and the mode of a line depend on the GPIO bank alone. -/
theorem lineLevel_congr {s t : State} (h : t.gpio = s.gpio) (p : Pin) : lineLevel t p = lineLevel s p := by
  unfold lineLevel; rw [h]

theorem lineMode_congr {s t : State} (h : t.gpio = s.gpio) (p : Pin) : lineMode t p = lineMode s p := by
  unfold lineMode; rw [h]

@[simp] theorem lineLevel_setEngUp (b : Bool) (q : Pin) : lineLevel (setEngUp b s) q = lineLevel s q := rfl
@[simp] theorem lineMode_setEngUp (b : Bool) (q : Pin) : lineMode (setEngUp b s) q = lineMode s q := rfl
@[simp] theorem lineLevel_setInflight (b : Bool) (q : Pin) : lineLevel (setInflight b s) q = lineLevel s q := rfl
@[simp] theorem lineMode_setInflight (b : Bool) (q : Pin) : lineMode (setInflight b s) q = lineMode s q := rfl
@[simp] theorem lineLevel_setBusy (b : Bool) (q : Pin) : lineLevel (setBusy b s) q = lineLevel s q := rfl
@[simp] theorem lineMode_setBusy (b : Bool) (q : Pin) : lineMode (setBusy b s) q = lineMode s q := rfl
@[simp] theorem lineLevel_setPsValid (b : Bool) (q : Pin) : lineLevel (setPsValid b s) q = lineLevel s q := rfl
@[simp] theorem lineMode_setPsValid (b : Bool) (q : Pin) : lineMode (setPsValid b s) q = lineMode s q := rfl
@[simp] theorem lineLevel_setWaveValid (b : Bool) (q : Pin) : lineLevel (setWaveValid b s) q = lineLevel s q := rfl
@[simp] theorem lineMode_setWaveValid (b : Bool) (q : Pin) : lineMode (setWaveValid b s) q = lineMode s q := rfl
@[simp] theorem lineLevel_setWstep (w : WorkerStep) (q : Pin) : lineLevel (setWstep w s) q = lineLevel s q := rfl
@[simp] theorem lineMode_setWstep (w : WorkerStep) (q : Pin) : lineMode (setWstep w s) q = lineMode s q := rfl
@[simp] theorem lineLevel_setLook (n : Nat) (q : Pin) : lineLevel (setLook n s) q = lineLevel s q := rfl
@[simp] theorem lineMode_setLook (n : Nat) (q : Pin) : lineMode (setLook n s) q = lineMode s q := rfl
@[simp] theorem lineLevel_setPsRecord (k : Nat) (r : Pulse) (q : Pin) : lineLevel (setPsRecord k r s) q = lineLevel s q := rfl
@[simp] theorem lineMode_setPsRecord (k : Nat) (r : Pulse) (q : Pin) : lineMode (setPsRecord k r s) q = lineMode s q := rfl
@[simp] theorem lineLevel_emit (e : Event) (q : Pin) : lineLevel (emit e s) q = lineLevel s q := rfl
@[simp] theorem lineMode_emit (e : Event) (q : Pin) : lineMode (emit e s) q = lineMode s q := rfl
@[simp] theorem lineLevel_respond (c : Command) (e : Code) (q : Pin) : lineLevel (respond c e s) q = lineLevel s q := rfl
@[simp] theorem lineMode_respond (c : Command) (e : Code) (q : Pin) : lineMode (respond c e s) q = lineMode s q := rfl
@[simp] theorem lineLevel_raise (c : Command) (e : Code) (q : Pin) : lineLevel (raise c e s) q = lineLevel s q := rfl
@[simp] theorem lineMode_raise (c : Command) (e : Code) (q : Pin) : lineMode (raise c e s) q = lineMode s q := rfl
@[simp] theorem lineLevel_answer (r : CallResult) (q : Pin) : lineLevel (answer r s) q = lineLevel s q := rfl
@[simp] theorem lineMode_answer (r : CallResult) (q : Pin) : lineMode (answer r s) q = lineMode s q := rfl
@[simp] theorem lineLevel_takePinModeAnswer (q : Pin) : lineLevel (takePinModeAnswer s) q = lineLevel s q := rfl
@[simp] theorem lineMode_takePinModeAnswer (q : Pin) : lineMode (takePinModeAnswer s) q = lineMode s q := rfl
@[simp] theorem lineLevel_drivePin (p : Pin) (b : Bool) (q : Pin) : lineLevel (drivePin p b s) q = if q = p then b else lineLevel s q :=
  lineLevel_setLevel s p q b
@[simp] theorem lineMode_drivePin (p : Pin) (b : Bool) (q : Pin) : lineMode (drivePin p b s) q = lineMode s q :=
  lineMode_setLevel s p q b
@[simp] theorem lineLevel_applyRecord (r : Pulse) (q : Pin) : lineLevel (applyRecord r s) q = recordLevel r q (lineLevel s q) :=
  lineLevel_applyMasks s r.set r.clr q
@[simp] theorem lineMode_applyRecord (r : Pulse) (q : Pin) : lineMode (applyRecord r s) q = lineMode s q :=
  lineMode_applyMasks s r.set r.clr q
@[simp] theorem lineLevel_elapse (n : Nat) (q : Pin) : lineLevel (elapse n s) q = lineLevel s q := rfl
@[simp] theorem lineMode_elapse (n : Nat) (q : Pin) : lineMode (elapse n s) q = lineMode s q := rfl
@[simp] theorem lineLevel_seqFinish (q : Pin) : lineLevel (seqFinish s) q = lineLevel s q := rfl
@[simp] theorem lineMode_seqFinish (q : Pin) : lineMode (seqFinish s) q = lineMode s q := rfl
@[simp] theorem lineLevel_takeEngineAnswer (q : Pin) : lineLevel (takeEngineAnswer s) q = lineLevel s q :=
  lineLevel_congr (takeEngineAnswer_gpio s) q
@[simp] theorem lineMode_takeEngineAnswer (q : Pin) : lineMode (takeEngineAnswer s) q = lineMode s q :=
  lineMode_congr (takeEngineAnswer_gpio s) q

end Sys2Proof.Machine
end

