-- ==== Sys2Proof/Laws/Ops.lean ====
section
/-! SUPPORT. One lemma for each shared operation that says once everything it can do: an operation that can be refused
answers a next state only so; an operation with several results answers one of these. -/

namespace Sys2Proof.Machine

variable {s t : State}

/-! ### Operands -/

/-- A pin operand that names a line names the line of that number. -/
theorem pinOf_eq_some {p : Int} {q : Pin} : pinOf p = some q ↔ p = (q.val : Int) := by
  have hq := q.isLt
  unfold pinOf Config.validPin
  constructor
  · intro h
    split at h
    · next hv =>
      simp only [Bool.and_eq_true, decide_eq_true_eq] at hv
      have := Option.some.inj h
      subst this
      simp [Fin.ofNat]
      omega
    · cases h
  · intro h
    subst h
    have : ((q.val : Int) < 32) := by omega
    simp [this]

/-- The number of a line is a pin operand that names it. -/
@[simp] theorem pinOf_val (q : Pin) : pinOf (q.val : Int) = some q := pinOf_eq_some.2 rfl

/-- A pin operand names no line exactly when `validPin` is false of it. -/
theorem pinOf_eq_none {p : Int} : pinOf p = none ↔ ¬ (0 ≤ p ∧ p < 32) := by
  simp [pinOf, Config.validPin]

@[simp] theorem physicalEn_true (b : Bool) : physicalEn true b = !b := by cases b <;> rfl

@[simp] theorem physicalEn_false (b : Bool) : physicalEn false b = b := by cases b <;> rfl

/-- Bit `q` of the mask of line `p`. -/
@[simp] theorem getLsbD_pinMask (p q : Pin) : (pinMask p).getLsbD q.val = decide (q = p) := by
  have := p.isLt; have := q.isLt
  by_cases h : q = p
  · subst h; simp [pinMask]
  · have hv : q.val ≠ p.val := fun e => h (Fin.ext e)
    simp only [pinMask, h, decide_false, BitVec.getLsbD_shiftLeft, BitVec.getLsbD_one]
    simp
    omega

@[simp] theorem getElem_pinMask (p q : Pin) : (pinMask p)[q.val] = decide (q = p) := by
  rw [← BitVec.getLsbD_eq_getElem]; exact getLsbD_pinMask p q

/-- The mask of a line is not empty. -/
@[simp] theorem pinMask_ne_zero (p : Pin) : pinMask p ≠ 0#32 := by
  intro h
  have := getLsbD_pinMask p p
  rw [h] at this
  simp at this

/-- Two lines with the same mask are the same line. -/
theorem pinMask_inj {p q : Pin} (h : pinMask p = pinMask q) : p = q := by
  have := getLsbD_pinMask p p
  rw [h, getLsbD_pinMask] at this
  simpa using this

/-- What a record leaves on the lines: a record of the two forms of R91 on line `tx` changes line `tx` alone. -/
theorem recordLevel_hi (tx q : Pin) (d : Micros) (old : Bool) :
    recordLevel { set := pinMask tx, clr := 0, dur := d } q old = if q = tx then true else old := by
  by_cases h : q = tx <;> simp [recordLevel, maskedLevel, h]

theorem recordLevel_lo (tx q : Pin) (d : Micros) (old : Bool) :
    recordLevel { set := 0, clr := pinMask tx, dur := d } q old = if q = tx then false else old := by
  by_cases h : q = tx <;> simp [recordLevel, maskedLevel, h]

/-- A record of a symbol drives TX to the physical level of its logical level and leaves every other line. -/
theorem recordLevel_mkPulse (c : PinConfig) (l : Logical) (n : Nat) (q : Pin) (old : Bool) :
    recordLevel (mkPulse c l n) q old = if q = c.txPin then physicalTx l c.invertTx else old := by
  unfold mkPulse
  split
  · next h => rw [recordLevel_hi, h]
  · next h => rw [recordLevel_lo]; simp [h]

/-- A mask names one line when it is some line's mask. -/
theorem oneLine_iff {m : Mask} : oneLine m = true ↔ ∃ p, m = pinMask p := by
  simp [oneLine, List.any_eq_true]

@[simp] theorem oneLine_pinMask (p : Pin) : oneLine (pinMask p) = true := oneLine_iff.2 ⟨p, rfl⟩

/-- The kinds of record the sequencer accepts (R91, R106): one of the two forms on a line `p`, which is `x[0]` when
there is a configuration. -/
theorem reservedRecord_eq_false {c : Option PinConfig} {r : Pulse} :
    reservedRecord c r = false ↔
      ∃ p, (∀ g ∈ c, p = g.txPin) ∧ r.dur ≠ 0 ∧
        (r = { set := pinMask p, clr := 0, dur := r.dur } ∨ r = { set := 0, clr := pinMask p, dur := r.dur }) := by
  obtain ⟨a, b, d⟩ := r
  cases c with
  | none =>
    simp only [reservedRecord, Bool.or_eq_false_iff, Bool.not_eq_false', Bool.or_eq_true, Bool.and_eq_true, beq_iff_eq,
      beq_eq_false_iff_ne, ne_eq, oneLine_iff, Pulse.mk.injEq, and_true, Option.mem_def, reduceCtorEq, false_implies,
      implies_true, true_and]
    constructor
    · rintro ⟨hd, ⟨⟨p, rfl⟩, rfl⟩ | ⟨rfl, ⟨p, rfl⟩⟩⟩
      · exact ⟨p, hd, .inl ⟨rfl, rfl⟩⟩
      · exact ⟨p, hd, .inr ⟨rfl, rfl⟩⟩
    · rintro ⟨p, hd, ⟨rfl, rfl⟩ | ⟨rfl, rfl⟩⟩
      · exact ⟨hd, .inl ⟨⟨p, rfl⟩, rfl⟩⟩
      · exact ⟨hd, .inr ⟨rfl, p, rfl⟩⟩
  | some g =>
    simp only [reservedRecord, Option.mem_def, Option.some.injEq, forall_eq', exists_eq_left, Pulse.mk.injEq, and_true,
      Bool.or_eq_false_iff, Bool.not_eq_false', Bool.or_eq_true, Bool.and_eq_true, beq_iff_eq, beq_eq_false_iff_ne, ne_eq]

/-- A record the sequencer accepts leaves every line but `x[0]`. -/
theorem recordLevel_other {c : PinConfig} {r : Pulse} (h : reservedRecord (some c) r = false) {q : Pin}
    (hq : q ≠ c.txPin) (old : Bool) : recordLevel r q old = old := by
  obtain ⟨p, hp, -, h | h⟩ := reservedRecord_eq_false.1 h
  · rw [h, recordLevel_hi, if_neg (hp c rfl ▸ hq)]
  · rw [h, recordLevel_lo, if_neg (hp c rfl ▸ hq)]

/-! ### Outcomes -/

theorem andThen_eq_next {o : Outcome} {f : State → State} :
    andThen o f = .next t ↔ ∃ u, o = .next u ∧ t = f u := by
  cases o <;> simp [andThen, eq_comm]

@[simp] theorem andThen_next (u : State) (f : State → State) : andThen (.next u) f = .next (f u) := rfl

@[simp] theorem andThen_refused (r : Refusal) (f : State → State) : andThen (.refused r) f = .refused r := rfl

theorem andThen_ne_fault {o : Outcome} {f : State → State} {r : Fault} (h : o ≠ .fault r) : andThen o f ≠ .fault r := by
  cases o <;> simp_all [andThen]

/-! ### The primitives -/

theorem writePin_eq_next {p : Int} {b : Bool} :
    writePin p b s = .next t ↔
      ∃ q, pinOf p = some q ∧ s.engUp = true ∧ lineMode s q = .output ∧ t = drivePin q b s := by
  unfold writePin
  cases h : pinOf p with
  | none => simp
  | some q =>
    by_cases hm : s.engUp = true ∧ lineMode s q = .output
    · simp [hm, eq_comm]
    · simp only [hm, if_false]; simp; intro h1 h2; exact absurd ⟨h1, h2⟩ hm

theorem writeEn_eq_next {b : Bool} :
    writeEn b s = .next t ↔
      ∃ c, s.cfg = some c ∧ s.engUp = true ∧ lineMode s c.enPin = .output ∧
        t = drivePin c.enPin (physicalEn b c.invertEn) s := by
  unfold writeEn
  cases h : s.cfg with
  | none => simp
  | some c => simp [writePin_eq_next]

theorem submitWave_eq_next :
    submitWave s = .next t ↔
      (s.ps.valid = true ∧ s.engUp = true ∧ s.wave.valid = false ∧ s.seq.busy = false) ∧
        t = { s with wave := { valid := true, entry := s.ps.entry } } := by
  unfold submitWave
  by_cases h : s.ps.valid = true ∧ s.engUp = true ∧ s.wave.valid = false ∧ s.seq.busy = false
  · rw [if_pos h]; simp [h, eq_comm]
  · rw [if_neg h]; simp only [reduceCtorEq, false_iff]; exact fun hh => h hh.1

theorem startPlayback_eq_next :
    startPlayback s = .next t ↔
      (s.engUp = true ∧ s.wave.valid = true ∧ s.seq.busy = false) ∧
        t = { s with seq := { s.seq with idx := 0, busy := true } } := by
  unfold startPlayback
  by_cases h : s.engUp = true ∧ s.wave.valid = true ∧ s.seq.busy = false
  · rw [if_pos h]; simp [h, eq_comm]
  · rw [if_neg h]; simp only [reduceCtorEq, false_iff]; exact fun hh => h hh.1

theorem deleteWave_eq_next :
    deleteWave s = .next t ↔
      (s.engUp = true ∧ s.wave.valid = true ∧ s.seq.busy = false) ∧ t = setWaveValid false s := by
  unfold deleteWave
  by_cases h : s.engUp = true ∧ s.wave.valid = true ∧ s.seq.busy = false
  · rw [if_pos h]; simp [h, eq_comm]
  · rw [if_neg h]; simp only [reduceCtorEq, false_iff]; exact fun hh => h hh.1

/-- ENGINE_TERM in one equation: with the engine down the three flags it writes are left alone. -/
theorem engineTerm_eq :
    engineTerm s =
      { s with
        engUp := false
        seq := { s.seq with busy := if s.engUp then false else s.seq.busy }
        wave := { s.wave with valid := if s.engUp then false else s.wave.valid } } := by
  unfold engineTerm
  split
  · next h => simp [setWaveValid, setBusy, setEngUp]
  · next h => cases s; simp_all

/-- ENGINE_INIT's refusal and its two results. -/
theorem engineInit_cases :
    (s.engUp = true ∧ engineInit s = .error .engineMisuse) ∨
    (s.engUp = false ∧ engineAnswer s = true ∧
      engineInit s = .ok (true, setWaveValid false (setBusy false (setEngUp true (takeEngineAnswer s))))) ∨
    (s.engUp = false ∧ engineAnswer s = false ∧ engineInit s = .ok (false, takeEngineAnswer s)) := by
  unfold engineInit
  cases hu : s.engUp <;> cases h : engineAnswer s <;> simp

/-- INIT answers a next state exactly when it has a result. -/
theorem execInit_eq_next {a b : Int} {x y : Bool} :
    execInit a b x y s = .next t ↔ ∃ r, initResult a b x y s = .ok r ∧ t = respond .init r.1 r.2 := by
  unfold execInit
  cases initResult a b x y s <;> simp [eq_comm]

/-- INIT has no result exactly when its ENGINE_INIT is called out of order. -/
theorem initResult_eq_error {a b : Int} {x y : Bool} {r : Refusal} :
    initResult a b x y s = .error r ↔ s.cfg = none ∧ s.engUp = true ∧ r = .engineMisuse := by
  unfold initResult cfgValid
  rcases engineInit_cases (s := s) with ⟨hu, he⟩ | ⟨hu, -, he⟩ | ⟨hu, -, he⟩ <;> rw [he] <;> cases s.cfg <;>
    simp [hu, eq_comm]

/-- SET_PIN_MODE's three results. -/
theorem setPinMode_cases (p : Int) (s : State) :
    (pinOf p = none ∧ setPinMode p s = (.error .invalidPin, s)) ∨
    (∃ q, pinOf p = some q ∧ pinModeAnswer s = false ∧ setPinMode p s = (.error .pinMode, takePinModeAnswer s)) ∨
    (∃ q, pinOf p = some q ∧ pinModeAnswer s = true ∧
      setPinMode p s = (.ok q, setMode q .output (takePinModeAnswer s))) := by
  unfold setPinMode
  cases h : pinOf p with
  | none => simp
  | some q => cases hm : pinModeAnswer s <;> simp

/-! ### Records and symbols -/

theorem playRecord_eq_next {r : Pulse} :
    playRecord r s = .next t ↔ reservedRecord s.cfg r = false ∧ t = applyRecord r s := by
  unfold playRecord
  cases h : reservedRecord s.cfg r <;> simp [eq_comm]

theorem putSymbol_of_cfg {k n : Nat} {l : Logical} {c : PinConfig} (h : s.cfg = some c) :
    putSymbol k l n s = .next (setPsRecord k (mkPulse c l n) s) := by
  simp [putSymbol, readConfig_of_cfg s h, afterReadConfig_of_cfg s h]

/-- A record the sequencer accepts is decoded, and run as itself. -/
theorem runRecord_of_not_reserved {r : Pulse} (h : reservedRecord s.cfg r = false) :
    runRecord r s = .next (applyRecord r s) := by
  obtain ⟨p, -, hd, hr | hr⟩ := reservedRecord_eq_false.1 h
  · have hdec : decodeRecord r = .ok (.pulseHi r.set r.dur) := by
      have hd' : ¬ r.dur = 0#32 := hd
      rw [hr]; simp [decodeRecord, hd']
    have hs : ({ set := r.set, clr := 0, dur := r.dur } : Pulse) = r := by rw [hr]
    simp only [runRecord, hdec, exec, execPulseHi, hs]
    exact playRecord_eq_next.2 ⟨h, rfl⟩
  · have hdec : decodeRecord r = .ok (.pulseLo r.clr r.dur) := by
      have hd' : ¬ r.dur = 0#32 := hd
      rw [hr]; simp [decodeRecord, hd']
    have hs : ({ set := 0, clr := r.clr, dur := r.dur } : Pulse) = r := by rw [hr]
    simp only [runRecord, hdec, exec, execPulseLo, hs]
    exact playRecord_eq_next.2 ⟨h, rfl⟩

/-- Running a fetched record answers a next state only by applying that record, which is not reserved. -/
theorem runRecord_eq_next {r : Pulse} :
    runRecord r s = .next t ↔ reservedRecord s.cfg r = false ∧ t = applyRecord r s := by
  constructor
  · intro h
    cases hres : reservedRecord s.cfg r with
    | false => rw [runRecord_of_not_reserved hres] at h; exact ⟨rfl, by simpa [eq_comm] using h⟩
    | true =>
      exfalso
      unfold runRecord decodeRecord at h
      split at h
      · next i hi =>
        split at hi
        · cases hi
        · next hd =>
          split at hi
          · next hc =>
            cases hi
            simp only [exec, execPulseHi, playRecord_eq_next] at h
            have : ({ set := r.set, clr := 0, dur := r.dur } : Pulse) = r := by rw [← hc.1]
            rw [this, hres] at h; simp at h
          · split at hi
            · next hc =>
              cases hi
              simp only [exec, execPulseLo, playRecord_eq_next] at h
              have : ({ set := 0, clr := r.clr, dur := r.dur } : Pulse) = r := by rw [← hc.1]
              rw [this, hres] at h; simp at h
            · cases hi
      · cases h
  · rintro ⟨h, rfl⟩
    exact runRecord_of_not_reserved h

/-- Running a fetched record never faults. -/
theorem runRecord_ne_fault {r : Pulse} {f : Fault} : runRecord r s ≠ .fault f := by
  cases h : reservedRecord s.cfg r with
  | false => rw [runRecord_of_not_reserved h]; simp
  | true =>
    unfold runRecord decodeRecord
    split
    · next i hi =>
      split at hi
      · cases hi
      · split at hi
        · cases hi; simp only [exec, execPulseHi, playRecord]; split <;> simp
        · split at hi
          · cases hi; simp only [exec, execPulseLo, playRecord]; split <;> simp
          · cases hi
    · simp

/-- The sequencer's step: it applies the record at SEQ.idx, or it finishes at the end of the waveform. -/
theorem seqStep_eq_next :
    seqStep s = .next t ↔
      s.wave.valid = true ∧
      ((∃ r, s.wave.entry[s.seq.idx]? = some r ∧ reservedRecord s.cfg r = false ∧ t = applyRecord r s) ∨
       (s.wave.entry[s.seq.idx]? = none ∧ t = seqFinish s)) := by
  unfold seqStep fetchRecord
  cases hv : s.wave.valid with
  | false => simp
  | true =>
    cases he : s.wave.entry[s.seq.idx]? with
    | none =>
      simp only [if_true, reduceCtorEq, false_and, exists_false, false_or, true_and, Host.Outcome.next.injEq]
      exact eq_comm
    | some r => simp only [if_true, runRecord_eq_next, Option.some.injEq, exists_eq_left', true_and, reduceCtorEq, false_and, or_false]

end Sys2Proof.Machine
end

