-- ==== Sys2Proof/Laws/PerInstr.lean ====
section
/-! SUPPORT. The statement made of every operation as syntax: its encoding has the format of its group (R100, R90, R95, R101,
R104), with the number of bits its row of spec/opcode_table.json has. -/

namespace Sys2Proof.Laws.Format

open Sys2Proof Sys2Proof.Machine

/-- How many bits a raw form has: 32 for CMD, 4 for CALL, 96 for PULSE, 6 for a symbol's pattern. -/
def width : Raw → Nat
  | .cmd _ => 32
  | .call _ _ _ => 4
  | .pulse _ => 96
  | .symbol _ _ => 6

/-- How many bits the rows of a group have. -/
def groupWidth : OpGroup → Nat
  | .hostCommand => 32
  | .enginePrimitive => 4
  | .enableLine => 4
  | .pulseForm => 96
  | .symbol => 6

/-- The encoding of an operation has the width of its group's rows. -/
def Statement (i : Instr) : Prop := width (encode i) = groupWidth (opGroup i)

theorem init (txPin enPin : Int) (invertTx invertEn : Bool) : Statement (.init txPin enPin invertTx invertEn) := rfl

theorem transmit (n : Nat) : Statement (.transmit n) := rfl

theorem close : Statement .close := rfl

theorem engineInit : Statement .engineInit := rfl

theorem engineTerm : Statement .engineTerm := rfl

theorem setPinMode (pin : Int) : Statement (.setPinMode pin) := rfl

theorem writePin (pin : Int) (level : Bool) : Statement (.writePin pin level) := rfl

theorem submitWave : Statement .submitWave := rfl

theorem startPlayback : Statement .startPlayback := rfl

theorem isBusy : Statement .isBusy := rfl

theorem deleteWave : Statement .deleteWave := rfl

theorem enEnable : Statement .enEnable := rfl

theorem enDisable : Statement .enDisable := rfl

theorem pulseHi (set : Mask) (dur : Micros) : Statement (.pulseHi set dur) := rfl

theorem pulseLo (clr : Mask) (dur : Micros) : Statement (.pulseLo clr dur) := rfl

theorem symBreak : Statement .symBreak := rfl

theorem symMab : Statement .symMab := rfl

theorem symSc : Statement .symSc := rfl

theorem symStart (i : Nat) : Statement (.symStart i) := rfl

theorem symData0 (i : Nat) (j : Fin 8) : Statement (.symData0 i j) := rfl

theorem symData1 (i : Nat) (j : Fin 8) : Statement (.symData1 i j) := rfl

theorem symStop (i : Option Nat) : Statement (.symStop i) := by cases i <;> rfl

end Sys2Proof.Laws.Format
end

