-- ==== Sys2Proof/Laws/Steps.lean ====
section
/-! SUPPORT. What a step can do, said once: the step by the next turn, the block by itself, and each worker step. -/

namespace Sys2Proof.Machine

variable {s t : State}

/-- A step is the next turn's, or the block's own when no turn is listed. -/
theorem step_eq_next :
    step s = .next t ↔
      (s.agenda = [] ∧ blockStep s = .next t) ∨
        ∃ u rest, s.agenda = u :: rest ∧ runTurn u { s with agenda := rest } = .next t := by
  unfold step machineStep
  cases h : s.agenda with
  | nil => simp
  | cons u rest => simp

/-- What the block does by itself. -/
theorem blockStep_eq_next :
    blockStep s = .next t ↔
      (seqEnabled s = true ∧ seqStep s = .next t) ∨
      (seqEnabled s = false ∧ workerEnabled s = true ∧ workerStep s = .next t) ∨
      (seqEnabled s = false ∧ workerEnabled s = false ∧ t = elapse (nextDeadline s) s) := by
  unfold blockStep
  cases h1 : seqEnabled s <;> cases h2 : workerEnabled s <;> simp [eq_comm]

/-- Running a raw form answers a next state only by running the operation it decodes to. -/
theorem runRaw_eq_next {raw : Raw} : runRaw raw s = .next t ↔ ∃ i, decode raw = .ok i ∧ exec i s = .next t := by
  unfold runRaw
  cases h : decode raw <;> simp

/-- What each worker step does when it answers a next state. -/
theorem workerStep_eq_next (h : workerStep s = .next t) :
    (s.tc.wstep = .wEnable ∧ ∃ c, s.cfg = some c ∧ lineMode s c.enPin = .output ∧
      t = setWstep .wSubmit (drivePin c.enPin (physicalEn true c.invertEn) s)) ∨
    (s.tc.wstep = .wSubmit ∧ s.ps.valid = true ∧ s.wave.valid = false ∧ s.seq.busy = false ∧
      t = setWstep .wStart { s with wave := { valid := true, entry := s.ps.entry } }) ∨
    (s.tc.wstep = .wStart ∧ s.wave.valid = true ∧ s.seq.busy = false ∧
      t = setWstep .wWait (setLook (Config.w0 s.tc.n) { s with seq := { s.seq with idx := 0, busy := true } })) ∨
    (s.tc.wstep = .wWait ∧ isBusy s = true ∧ t = setLook Config.q s) ∨
    (s.tc.wstep = .wWait ∧ isBusy s = false ∧ t = setWstep .wDisable s) ∨
    (s.tc.wstep = .wDisable ∧ ∃ c, s.cfg = some c ∧ lineMode s c.enPin = .output ∧
      t = setWstep .wDelete (drivePin c.enPin (physicalEn false c.invertEn) s)) ∨
    (s.tc.wstep = .wDelete ∧ s.wave.valid = true ∧ s.seq.busy = false ∧ t = setWstep .wFree (setWaveValid false s)) ∨
    (s.tc.wstep = .wFree ∧ t = setWstep .wDone (setPsValid false s)) ∨
    (s.tc.wstep = .wDone ∧ t = emit .done (setInflight false s)) := by
  unfold workerStep at h
  cases hw : s.tc.wstep <;> rw [hw] at h <;> simp only at h
  · obtain ⟨u, hu, rfl⟩ := andThen_eq_next.1 h
    obtain ⟨c, hc, -, hm, rfl⟩ := writeEn_eq_next.1 hu
    exact .inl ⟨rfl, c, hc, hm, rfl⟩
  · obtain ⟨u, hu, rfl⟩ := andThen_eq_next.1 h
    obtain ⟨⟨hp, -, hv, hb⟩, rfl⟩ := submitWave_eq_next.1 hu
    exact .inr (.inl ⟨rfl, hp, hv, hb, rfl⟩)
  · obtain ⟨u, hu, rfl⟩ := andThen_eq_next.1 h
    obtain ⟨⟨-, hv, hb⟩, rfl⟩ := startPlayback_eq_next.1 hu
    exact .inr (.inr (.inl ⟨rfl, hv, hb, rfl⟩))
  · unfold workWait at h
    cases hb : isBusy s <;> simp [hb] at h <;> simp [h]
  · obtain ⟨u, hu, rfl⟩ := andThen_eq_next.1 h
    obtain ⟨c, hc, -, hm, rfl⟩ := writeEn_eq_next.1 hu
    exact .inr (.inr (.inr (.inr (.inr (.inl ⟨rfl, c, hc, hm, rfl⟩)))))
  · obtain ⟨u, hu, rfl⟩ := andThen_eq_next.1 h
    obtain ⟨⟨-, hv, hb⟩, rfl⟩ := deleteWave_eq_next.1 hu
    exact .inr (.inr (.inr (.inr (.inr (.inr (.inl ⟨rfl, hv, hb, rfl⟩))))))
  · simp only [workFree, Host.Outcome.next.injEq] at h; simp [h]
  · simp only [workDone, Host.Outcome.next.injEq] at h; simp [h]

/-! ### The lines under the operations of INIT -/

@[simp] theorem lineMode_engineTerm (s : State) (p : Pin) : lineMode (engineTerm s) p = lineMode s p :=
  lineMode_congr (by simp [engineTerm_eq]) p

@[simp] theorem lineLevel_engineTerm (s : State) (p : Pin) : lineLevel (engineTerm s) p = lineLevel s p :=
  lineLevel_congr (by simp [engineTerm_eq]) p

@[simp] theorem lineMode_configure (a b : Pin) (x y : Bool) (s : State) (p : Pin) :
    lineMode (configure a b x y s) p = lineMode s p := by
  unfold configure; rw [lineMode_drivePin]; rfl

@[simp] theorem lineLevel_configure (a b : Pin) (x y : Bool) (s : State) (p : Pin) :
    lineLevel (configure a b x y s) p = if p = b then physicalEn false y else lineLevel s p := by
  unfold configure; rw [lineLevel_drivePin]; rfl

end Sys2Proof.Machine
end

