-- ==== Sys2Proof/Machine/Text.lean ====
section
/-! DEFINITION. The textual syntax (R108, R109): what a sequence written in it denotes, a reader of that text, and the
writing of commands.  Text is a list of characters (assumption 28). -/

namespace Sys2Proof.Machine

/-- One item of the syntax, `<m>× <level> <duration>`: how often, the logical level, the microseconds. -/
structure TextItem where
  times : Nat
  level : Logical
  micros : Nat
deriving DecidableEq, Repr

/-- The records an item denotes under a configuration: that many records of the level, each held for the duration.
R108 sets no bound on a written duration while `dur` has 32 bits (R9) and R13 has no wrap-around, so no record denotes an
item of 2^32 microseconds or more: keeping the low 32 bits of it is the model's choice (assumption 28). -/
def itemRecords (c : PinConfig) (item : TextItem) : List Pulse :=
  List.replicate item.times
    (if physicalTx item.level c.invertTx then { set := pinMask c.txPin, clr := 0, dur := BitVec.ofNat 32 item.micros }
     else { set := 0, clr := pinMask c.txPin, dur := BitVec.ofNat 32 item.micros })

/-- The records a sequence denotes together with `x[0]`, `x[2]` and `U` (R108). -/
def textRecords (c : PinConfig) (items : List TextItem) : List Pulse := items.flatMap (itemRecords c)

/-- The text without its comments: "a parenthesis is a comment".  The number is how many parentheses are open. -/
def withoutComments : Nat → List Char → List Char
  | _, [] => []
  | d, '(' :: cs => withoutComments (d + 1) cs
  | d, ')' :: cs => withoutComments (d - 1) cs
  | 0, ch :: cs => ch :: withoutComments 0 cs
  | d + 1, _ :: cs => withoutComments (d + 1) cs

/-- The pieces of a text between separators. -/
def pieces (sep : Char) : List Char → List (List Char)
  | [] => [[]]
  | ch :: cs =>
    if ch = sep then [] :: pieces sep cs
    else
      match pieces sep cs with
      | [] => [[ch]]
      | w :: ws => (ch :: w) :: ws

/-- The words of a text: its pieces between spaces that are not empty. -/
def textWords (cs : List Char) : List (List Char) := (pieces ' ' cs).filter fun w => !w.isEmpty

/-- A decimal digit's value. -/
def digit (ch : Char) : Option Nat :=
  if '0'.toNat ≤ ch.toNat ∧ ch.toNat ≤ '9'.toNat then some (ch.toNat - '0'.toNat) else none

/-- A decimal numeral and what follows it; `n` is the value of the digits read so far, `none` before the first. -/
def numeral : Option Nat → List Char → Option (Nat × List Char)
  | none, [] => none
  | some n, [] => some (n, [])
  | acc, ch :: cs =>
    match digit ch, acc with
    | some v, acc => numeral (some (acc.getD 0 * 10 + v)) cs
    | none, some n => some (n, ch :: cs)
    | none, none => none

/-- A level word: `space` or `mark`. -/
def levelWord (w : List Char) : Option Logical :=
  if w = ['s', 'p', 'a', 'c', 'e'] then some .space
  else if w = ['m', 'a', 'r', 'k'] then some .mark
  else none

/-- A duration word, in microseconds: `<n>µs`, also written `<n>us`, or `<n>U`. -/
def durationWord (w : List Char) : Option Nat :=
  match numeral none w with
  | some (n, ['µ', 's']) => some n
  | some (n, ['u', 's']) => some n
  | some (n, ['U']) => some (n * Config.u)
  | _ => none

/-- A repetition word: `<m>×`. -/
def timesWord (w : List Char) : Option Nat :=
  match numeral none w with
  | some (m, ['×']) => some m
  | _ => none

/-- One item's words. -/
def readItem : List (List Char) → Option TextItem
  | [l, d] =>
    match levelWord l, durationWord d with
    | some level, some micros => some { times := 1, level := level, micros := micros }
    | _, _ => none
  | [m, l, d] =>
    match timesWord m, levelWord l, durationWord d with
    | some times, some level, some micros => some { times := times, level := level, micros := micros }
    | _, _, _ => none
  | _ => none

/-- A sequence in the syntax of R108, `none` when the text is not one. -/
def readSequence (text : List Char) : Option (List TextItem) :=
  (pieces ',' (withoutComments 0 text)).mapM fun item => readItem (textWords item)

/-- A symbol written as an item: its level and its units. -/
def symbolItem (level : Logical) (units : Nat) : TextItem := { times := 1, level := level, micros := units * Config.u }

/-- A truth value as a command writes it (R109). -/
def showBool (b : Bool) : String := if b then "true" else "false"

/-- A pin as a command writes it (R109). -/
def showPin (p : Int) : String := toString p

/-- One hexadecimal digit. -/
def hexDigit (n : Nat) : Char := ['0', '1', '2', '3', '4', '5', '6', '7', '8', '9', 'A', 'B', 'C', 'D', 'E', 'F'].getD n '0'

/-- A byte as a command writes it, `0x00` (R109). -/
def showByte (b : Byte) : List Char := ['0', 'x', hexDigit (b.toNat / 16), hexDigit (b.toNat % 16)]

/-- A host command as it is written: `init(5, 6, false, false)`, operands in the order txPin, enPin, invertTx, invertEn;
`transmit([0x00, 0xFF])`, without the callback; `close()` (R109).  The other operations are not commands. -/
def showCommand (i : Instr) (bytes : List Byte) : Option String :=
  match i with
  | .init txPin enPin invertTx invertEn =>
    some ("init(" ++ showPin txPin ++ ", " ++ showPin enPin ++ ", " ++ showBool invertTx ++ ", " ++ showBool invertEn ++ ")")
  | .transmit _ =>
    some ("transmit([" ++ ", ".intercalate (bytes.map fun b => String.ofList (showByte b)) ++ "])")
  | .close => some "close()"
  | .engineInit => none
  | .engineTerm => none
  | .setPinMode _ => none
  | .writePin _ _ => none
  | .submitWave => none
  | .startPlayback => none
  | .isBusy => none
  | .deleteWave => none
  | .enEnable => none
  | .enDisable => none
  | .pulseHi _ _ => none
  | .pulseLo _ _ => none
  | .symBreak => none
  | .symMab => none
  | .symSc => none
  | .symStart _ => none
  | .symData0 _ _ => none
  | .symData1 _ _ => none
  | .symStop _ => none

end Sys2Proof.Machine
end

