-- ==== Sys2Proof/Tests/Slice0.lean ====
section
/-! SUPPORT. Small tests, their expected results taken from spec/95_test_vectors.md and the tables of the rules cited, and a
named witness for the hypotheses of each statement. -/

namespace Sys2Proof.Tests

open Sys2Proof Sys2Proof.Machine

/-! ### Small states -/

/-- `x = (5, 6, 0, 0)`. -/
def plain : PinConfig := { txPin := 5, enPin := 6, invertTx := false, invertEn := false }

/-- Unconfigured, no line an output, every line low, with these answers of the environment to come. -/
def blank (engine pins : List Bool) : State :=
  { cfg := none, engUp := false, gpio := Vector.replicate 32 { mode := .other, level := false }
    ps := { valid := false, entry := [] }, wave := { valid := false, entry := [] }
    seq := { busy := false, idx := 0, rem := 0 }, tc := { inflight := false, wstep := .wEnable, n := 0, look := 0 }
    buf := [], env := { engineInitOk := engine, pinModeOk := pins, drawn := 0 }, callResult := none
    agenda := [], trace := [], now := 0 }

/-- Configured and idle, every line an output and low. -/
def idle : State :=
  { blank [] [] with cfg := some plain, engUp := true, gpio := Vector.replicate 32 { mode := .output, level := false } }

/-- The four records of the empty payload. -/
def emptyFrame : List Pulse :=
  [{ set := 0, clr := 0x20, dur := 88 }, { set := 0x20, clr := 0, dur := 8 }, { set := 0, clr := 0x20, dur := 36 },
   { set := 0x20, clr := 0, dur := 8 }]

/-- In flight with the empty payload at worker step `w`, with these turns to come. -/
def flying (w : WorkerStep) (agenda : List Turn) : State :=
  { idle with
    ps := { valid := w != .wDone, entry := emptyFrame }
    wave := { valid := w == .wStart || w == .wWait || w == .wDisable || w == .wDelete, entry := emptyFrame }
    gpio := (Vector.replicate 32 { mode := .output, level := false }).set 6
      { mode := .output, level := w == .wSubmit || w == .wStart || w == .wWait || w == .wDisable }
    tc := { inflight := true, wstep := w, n := 0, look := 0 }
    agenda := agenda }

/-- Playing record `idx - 1`, `rem` microseconds of it left. -/
def playing (idx rem : Nat) (agenda : List Turn) : State :=
  { flying .wWait agenda with
    seq := { busy := true, idx := idx, rem := rem }, tc := { inflight := true, wstep := .wWait, n := 0, look := 136 } }

/-- What a test looks at in an outcome, `none` when it is no next state. -/
def after {α : Type} (o : Outcome) (f : State → α) : Option α :=
  match o with
  | .next s => some (f s)
  | .fault _ => none
  | .refused _ => none

/-- Why an outcome is no next state: its fault or its refusal. -/
def stop (o : Outcome) : Option (Fault ⊕ Refusal) :=
  match o with
  | .next _ => none
  | .fault f => some (.inl f)
  | .refused r => some (.inr r)

/-! ### WellFormed: an ill-formed term for each check, refused -/

theorem test_wf_init_pin_too_large : (Instr.init 256 6 false false).wellFormed = false := by decide
theorem test_wf_init_pin_negative : (Instr.init 5 (-1) false false).wellFormed = false := by decide
theorem test_wf_init_largest : (Instr.init 255 0 true true).wellFormed = true := by decide
theorem test_wf_transmit_too_long : (Instr.transmit (2 ^ 30)).wellFormed = false := by decide
theorem test_wf_pulse_hi_no_line : (Instr.pulseHi 0 8).wellFormed = false := by decide
theorem test_wf_pulse_hi_two_lines : (Instr.pulseHi 0x21 8).wellFormed = false := by decide
theorem test_wf_pulse_lo_no_time : (Instr.pulseLo 0x20 0).wellFormed = false := by decide
theorem test_wf_pulse_lo_line_31 : (Instr.pulseLo 0x80000000 36).wellFormed = true := by decide

/-! ### Decoding: words written out from R101, R104, R90 and R95 -/

/-- V13: `5 << 2 | 6 << 10`, bit 18. -/
theorem test_decode_init : decode (.cmd 0b00000000000001000001100000010100#32) = .ok (.init 5 6 true false) := by decide
/-- V13: `17 << 2 | 27 << 10 | 1 << 19`. -/
theorem test_decode_init_inverted_en :
    decode (.cmd 0b00000000000010000110110001000100#32) = .ok (.init 17 27 false true) := by decide
/-- V13: `N = 2`. -/
theorem test_decode_transmit : decode (.cmd 0b00000000000000000000000000001001#32) = .ok (.transmit 2) := by decide
theorem test_decode_close : decode (.cmd 0b00000000000000000000000000000010#32) = .ok .close := by decide
/-- V13, last row: op 3; op 3; INIT with bit 20 set; CLOSE with bit 2 set. -/
theorem test_decode_reserved_commands :
    [0x00000003#32, 0xFFFFFFFF#32, 0x00101814#32, 0x00000006#32].map (fun w => decode (.cmd w)) =
      List.replicate 4 (.error .reservedCommand) := by decide
/-- R104: the ten selectors in order. -/
theorem test_decode_calls :
    (List.range 10).map (fun k => decode (.call (BitVec.ofNat 4 k) 7 true)) =
      [.ok .engineInit, .ok .engineTerm, .ok (.setPinMode 7), .ok (.writePin 7 true), .ok .submitWave, .ok .startPlayback,
       .ok .isBusy, .ok .deleteWave, .ok .enEnable, .ok .enDisable] := by decide
/-- R104: "`1010` to `1111` name nothing". -/
theorem test_decode_reserved_calls :
    (List.range 6).map (fun k => decode (.call (BitVec.ofNat 4 (10 + k)) 0 false)) =
      List.replicate 6 (.error .reservedCall) := by decide
/-- S1, record 1: `0x00000020_00000000_00000008`. -/
theorem test_decode_pulse_hi : decode (.pulse 0x000000200000000000000008#96) = .ok (.pulseHi 0x20 8) := by decide
/-- S1, record 0: `0x00000000_00000020_00000058`. -/
theorem test_decode_pulse_lo : decode (.pulse 0x000000000000002000000058#96) = .ok (.pulseLo 0x20 88) := by decide
/-- R106: both masks zero; overlapping masks; two lines; no time. -/
theorem test_decode_reserved_pulses :
    [0x000000000000000000000008#96, 0x000000200000002000000008#96, 0x000000210000000000000008#96,
      0x000000200000000000000000#96].map (fun w => decode (.pulse w)) =
      List.replicate 4 (.error .reservedPulse) := by decide
/-- R95, R96, V9: patterns with their indices. -/
theorem test_decode_symbols :
    [decode (.symbol 0b010110#6 0), decode (.symbol 0b100010#6 1), decode (.symbol 0b001001#6 2),
      decode (.symbol 0b100010#6 3), decode (.symbol 0b000001#6 14), decode (.symbol 0b000001#6 5),
      decode (.symbol 0b100001#6 12), decode (.symbol 0b100010#6 5123)] =
      [.ok .symBreak, .ok .symMab, .ok .symSc, .ok (.symStop none), .ok (.symStart 1), .ok (.symData0 0 0),
       .ok (.symData1 0 7), .ok (.symStop (some 511))] := by decide
/-- A mark unit where a START stands, and a unit count no symbol has, are no symbols. -/
theorem test_decode_no_symbol :
    decode (.symbol 0b100001#6 4) = .error .reservedSymbol ∧ decode (.symbol 0b000011#6 5) = .error .reservedSymbol := by
  decide
/-- V13: the words encoded. -/
theorem test_encode_commands :
    [encode (.init 5 6 false false), encode (.init 255 255 true true), encode (.transmit 512), encode .close] =
      [.cmd 0x00001814#32, .cmd 0x000FFFFC#32, .cmd 0x00000801#32, .cmd 0x00000002#32] := by decide
/-- R95: the patterns of the table. -/
theorem test_encode_symbols :
    [encode .symBreak, encode .symMab, encode .symSc, encode (.symStart 0), encode (.symData0 0 0), encode (.symData1 0 0),
      encode (.symStop none)] =
      [.symbol 0b010110#6 0, .symbol 0b100010#6 1, .symbol 0b001001#6 2, .symbol 0b000001#6 4, .symbol 0b000001#6 5,
       .symbol 0b100001#6 5, .symbol 0b100010#6 3] := by decide
/-- R62: `set` first, least significant byte first. -/
theorem test_serialised_record :
    pulseBytes { set := 0x01020304, clr := 0x80, dur := 0x58 } = [4, 3, 2, 1, 0x80, 0, 0, 0, 0x58, 0, 0, 0] := by decide
/-- The rows' words, counted in whole bytes. -/
theorem test_table_words :
    [decodeTableWord 32 0x801, decodeTableWord 8 5, decodeTableWord 8 0x16, decodeTableWord 16 0x122,
      decodeTableWord 96 0x000000200000000000000008, decodeTableWord 32 3] =
      [some (.transmit 512), some .startPlayback, some .symBreak, some .symMab, some (.pulseHi 0x20 8), none] := by decide

/-! ### The encoder -/

/-- V1. -/
theorem test_mkPulse :
    [mkPulse plain .space 22, mkPulse plain .mark 2, mkPulse { plain with invertTx := true } .space 22,
      mkPulse { plain with txPin := 0 } .mark 1, mkPulse { plain with txPin := 31 } .space 9] =
      [{ set := 0, clr := 0x20, dur := 88 }, { set := 0x20, clr := 0, dur := 8 }, { set := 0x20, clr := 0, dur := 88 },
       { set := 1, clr := 0, dur := 4 }, { set := 0, clr := 0x80000000, dur := 36 }] := by decide
/-- V4: `[0xA5]`, inverted. -/
theorem test_encode_a5 :
    encodeRecords { plain with invertTx := true } [0xA5] =
      [⟨0x20, 0, 88⟩, ⟨0, 0x20, 8⟩, ⟨0x20, 0, 36⟩, ⟨0, 0x20, 8⟩, ⟨0x20, 0, 4⟩, ⟨0, 0x20, 4⟩, ⟨0x20, 0, 4⟩, ⟨0, 0x20, 4⟩,
       ⟨0x20, 0, 4⟩, ⟨0x20, 0, 4⟩, ⟨0, 0x20, 4⟩, ⟨0x20, 0, 4⟩, ⟨0, 0x20, 4⟩, ⟨0, 0x20, 8⟩] := by decide
/-- V5: the physical levels of `[0x01, 0x80]` on TX, in order. -/
theorem test_encode_order :
    (encodeRecords { plain with txPin := 17 } [0x01, 0x80]).map (fun r => r.set == 0x00020000) =
      [false, true, false, true,
       false, true, false, false, false, false, false, false, false, true,
       false, false, false, false, false, false, false, false, true, true] := by decide
/-- V8: offsets, in units of four microseconds, of STOP of byte 0, START of byte 1, and the end. -/
theorem test_offsets :
    ([13, 14, 24].map fun k => offsetMicros (encodeRecords plain [1, 0x80]) k) = [44 * 4, 46 * 4, 57 * 4] := by decide
/-- V4, round trip: samples at 146, 150, ... 174. -/
theorem test_sampling :
    ([146, 150, 154, 158, 162, 166, 170, 174].map fun t =>
      levelAt 5 (encodeRecords { plain with invertTx := true } [0xA5]) t false) =
      [false, true, false, true, true, false, true, false] := by decide
/-- V3: lo 88, hi 8, lo 36, hi 8, lo 4, hi 40. -/
theorem test_wire_runs :
    wireRuns 5 (encodeRecords plain [0xFF]) true =
      [(false, 88), (true, 8), (false, 36), (true, 8), (false, 4), (true, 40)] := by decide
/-- R108, in part: items with a comment, a repetition and both duration forms. -/
theorem test_text :
    readSequence "space 36µs (a b), 8× mark 1U".toList =
      some [{ times := 1, level := .space, micros := 36 }, { times := 8, level := .mark, micros := 4 }] := by decide
/-- R109. -/
theorem test_show_command : showCommand (.transmit 2) [0x00, 0xFF] = some "transmit([0x00, 0xFF])" := by decide

/-! ### The host commands (V12) -/

/-- Row 1, and row 6: the mode of the TX line stays. -/
theorem test_init :
    after (exec (.init 5 6 false false) (blank [true] [])) (fun s => (s.cfg, lineMode s 5, lineMode s 6, s.trace)) =
      some (some plain, .output, .output, [.pin 6 false, .resp .init .ok]) ∧
    after (exec (.init 5 40 false false) (blank [true] [])) (fun s => (s.engUp, lineMode s 5, s.trace)) =
      some (false, .output, [.resp .init .invalidPinError]) := by decide
/-- Rows 2 to 5, 7, 8, 10 and 11. -/
theorem test_init_errors :
    after (exec (.init 5 6 false false) (blank [false] [])) (fun s => s.trace) = some [.resp .init .hardwareInitFailed] ∧
    after (exec (.init 5 5 false false) (blank [true] [])) (fun s => s.trace) = some [.resp .init .samePinError] ∧
    after (exec (.init 5 5 false false) (blank [false] [])) (fun s => s.trace) = some [.resp .init .hardwareInitFailed] ∧
    after (exec (.init 40 40 false false) (blank [true] [])) (fun s => s.trace) = some [.resp .init .samePinError] ∧
    after (exec (.init 5 6 false false) (blank [true] [false])) (fun s => s.trace) = some [.resp .init .pinModeError] ∧
    after (exec (.init 40 6 false false) (blank [true] [false])) (fun s => s.trace) = some [.resp .init .invalidPinError] ∧
    after (exec (.init (-1) 6 false false) (blank [true] [])) (fun s => s.trace) = some [.resp .init .invalidPinError] := by
  decide
/-- Rows 15 to 18. -/
theorem test_transmit :
    after (exec (.transmit 1) (blank [] [])) (fun s => s.trace) = some [.resp .transmit .notInitialized] ∧
    after (exec (.transmit 1) idle) (fun s => (s.ps.entry.length, s.tc)) =
      some (14, { inflight := true, wstep := .wEnable, n := 1, look := 0 }) ∧
    after (exec (.transmit 0) idle) (fun s => s.ps.entry.length) = some 4 ∧
    after (exec (.transmit 1) (flying .wDelete [])) (fun s => s.trace) = some [.resp .transmit .busy] := by decide
/-- Row 19: 513 bytes. -/
theorem test_transmit_too_long : stop (exec (.transmit 513) idle) = some (.inr .payloadTooLong) := by decide
/-- Rows 21 to 23. -/
theorem test_close :
    after (exec .close (blank [] [])) (fun s => s.trace) = some [.resp .close .ok] ∧
    after (exec .close idle) (fun s => (s.cfg, s.engUp, lineMode s 5)) = some (none, false, .output) ∧
    stop (exec .close (flying .wSubmit [])) = some (.inl .closeInFlight) := by decide
/-- R240: the code of each error. -/
theorem test_codes :
    [Code.ok, .alreadyInitialized, .notInitialized, .hardwareInitFailed, .invalidPinError, .pinModeError, .samePinError,
      .busy].map codeBits = [0, 1, 2, 3, 4, 5, 6, 7] := by decide

/-! ### The engine primitives and the enable line -/

theorem test_engine_init :
    after (exec .engineInit (blank [true] [])) (fun s => (s.engUp, s.callResult)) = some (true, some .ok) ∧
    after (exec .engineInit (blank [false] [])) (fun s => (s.engUp, s.callResult)) = some (false, some .engineErr) := by decide
/-- R160: "only when `ENG.up = 0`"; R177: "refuse". -/
theorem test_engine_init_twice :
    stop (exec .engineInit { idle with env := (blank [false] []).env }) = some (.inr .engineMisuse) := by decide
theorem test_engine_term : after (exec .engineTerm idle) (fun s => s.engUp) = some false := by decide
/-- R162: `SET_PIN_MODE(40, Output)`: `Err(InvalidPin)`. -/
theorem test_set_pin_mode :
    after (exec (.setPinMode 40) idle) (fun s => s.callResult) = some (some (.pinErr .invalidPin)) ∧
    after (exec (.setPinMode 31) { blank [] [] with engUp := true }) (fun s => (lineMode s 31, lineMode s 30)) =
      some (.output, .other) := by decide
/-- R163: `WRITE_PIN(6, 1)`. -/
theorem test_write_pin :
    after (exec (.writePin 6 true) idle) (fun s => (lineLevel s 6, lineLevel s 5, s.trace)) =
      some (true, false, [.pin 6 true]) := by decide
theorem test_submit_wave :
    after (exec .submitWave (flying .wSubmit [])) (fun s => (s.wave, s.callResult)) =
      some ({ valid := true, entry := emptyFrame }, some .handle) := by decide
theorem test_start_playback :
    after (exec .startPlayback { flying .wStart [] with seq := { busy := false, idx := 4, rem := 0 } }) (fun s => s.seq) =
      some { busy := true, idx := 0, rem := 0 } := by decide
theorem test_is_busy :
    after (exec .isBusy (playing 4 8 [])) (fun s => s.callResult) = some (some (.busy true)) ∧
    after (exec .isBusy { playing 4 8 [] with engUp := false }) (fun s => s.callResult) = some (some (.busy false)) := by decide
theorem test_delete_wave :
    after (exec .deleteWave (flying .wDelete [])) (fun s => s.wave) = some { valid := false, entry := emptyFrame } ∧
    stop (exec .deleteWave (playing 1 88 [])) = some (.inr .engineMisuse) := by decide
/-- V10. -/
theorem test_en_enable :
    after (exec .enEnable idle) (fun s => s.trace) = some [.pin 6 true] ∧
    after (exec .enEnable { idle with cfg := some { plain with invertEn := true } }) (fun s => s.trace) =
      some [.pin 6 false] := by decide
/-- V10. -/
theorem test_en_disable :
    after (exec .enDisable idle) (fun s => s.trace) = some [.pin 6 false] ∧
    after (exec .enDisable { idle with cfg := some { plain with invertEn := true } }) (fun s => s.trace) =
      some [.pin 6 true] := by decide

/-! ### Pulses, symbols and steps -/

/-- V11: the level, the hold and the index. -/
theorem test_pulse_hi :
    after (exec (.pulseHi 0x20 8) (playing 1 0 [])) (fun s => (lineLevel s 5, s.seq, s.trace)) =
      some (true, { busy := true, idx := 2, rem := 8 }, [.pulse 1 0x20 0 8]) := by decide
theorem test_pulse_lo :
    after (exec (.pulseLo 0x20 88) (playing 0 0 [])) (fun s => (lineLevel s 5, s.seq.rem)) = some (false, 88) ∧
    stop (exec (.pulseLo 0x40 88) (playing 0 0 [])) = some (.inr .reservedPulse) := by decide
/-- R132, R133, R134, R139: pulses 0 to 3. -/
theorem test_preamble_symbols :
    after (execAll [.symBreak, .symMab, .symSc, .symStop none] idle) (fun s => s.ps.entry) = some emptyFrame := by decide
/-- R135: `PS.entry[4]`. -/
theorem test_sym_start :
    after (exec (.symStart 0) idle) (fun s => readRecord s.ps.entry 4) = some { set := 0, clr := 0x20, dur := 4 } := by decide
/-- R136: `PS.entry[8]` for `j = 3`. -/
theorem test_sym_data0 :
    after (exec (.symData0 0 3) idle) (fun s => readRecord s.ps.entry 8) = some { set := 0, clr := 0x20, dur := 4 } := by
  decide
/-- R137: `PS.entry[5]` for `j = 0`. -/
theorem test_sym_data1 :
    after (exec (.symData1 0 0) idle) (fun s => readRecord s.ps.entry 5) = some { set := 0x20, clr := 0, dur := 4 } := by
  decide
/-- R139: `PS.entry[13]`, the STOP of byte 0. -/
theorem test_sym_stop :
    after (exec (.symStop (some 0)) idle) (fun s => readRecord s.ps.entry 13) = some { set := 0x20, clr := 0, dur := 8 } := by
  decide
/-- V11: the sequencer's step, and its finish. -/
theorem test_sequencer :
    after (step (playing 0 0 [])) (fun s => (s.seq, s.trace)) =
      some ({ busy := true, idx := 1, rem := 88 }, [.pulse 0 0 0x20 88]) ∧
    after (step (playing 4 0 [])) (fun s => (s.seq, s.trace)) = some ({ busy := false, idx := 4, rem := 0 }, [.idle]) := by
  decide
/-- R297: while record 0 is held no more than its hold can pass. -/
theorem test_elapse :
    after (step (playing 1 88 [.elapse 200])) (fun s => (s.now, s.seq.rem, s.tc.look)) = some (88, 0, 48) := by decide
/-- R298, V14: the first look comes 136 microseconds after W_START for `N = 0`. -/
theorem test_first_look :
    after (step (flying .wStart [])) (fun s => (s.tc.look, s.tc.wstep, s.seq.busy)) = some (136, .wWait, true) := by decide
/-- R101: the bytes that follow the word are the payload, `BUF[0]` first. -/
theorem test_host_turn :
    after (step { idle with agenda := [.host 0x00000009#32 [0x01, 0x80]] }) (fun s => s.ps.entry) =
      some (encodeRecords plain [0x01, 0x80]) := by decide
/-- The word placed is the word run. -/
theorem test_with_fetch_word :
    step (idle.withFetchWord 8 0x06) = exec .isBusy idle ∧
    step (idle.withFetchWord 96 0x000000200000000000000008) =
      exec (.pulseHi 0x20 8)
        { idle with
          seq := { busy := true, idx := 0, rem := 0 }
          wave := { valid := true, entry := [{ set := 0x20, clr := 0, dur := 8 }] } } := by
  constructor <;> rfl
/-- A symbol and a pulse run right after reset. -/
theorem test_runs_from_reset :
    (after (step (State.reset.withFetchWord 8 0x16)) fun _ => ()) = some () ∧
    (after (step (State.reset.withFetchWord 96 0x000000200000000000000008)) fun _ => ()) = some () ∧
    (after (step (State.reset.withFetchWord 32 0x00001814)) fun _ => ()) = some () := by
  refine ⟨?_, ?_, ?_⟩ <;> rfl

/-! ### Witnesses: for each statement with hypotheses, values that meet them together -/

/-- Idle with both pins low and the invariants, in flight at W_START, and playing: the states the witnesses below use. -/
theorem witness_invariants : Inv (blank [true] []) ∧ Inv idle ∧ Inv (flying .wStart []) ∧ Inv (playing 1 88 []) := by
  refine ⟨?_, ?_, ?_, ?_⟩ <;> decide

theorem witness_DecodeEncodeRoundTrip :
    ∀ i ∈ [Instr.init 0 255 true false, .transmit (2 ^ 30 - 1), .pulseHi 1 1, .pulseLo 0x80000000 0xFFFFFFFF],
      i.wellFormed = true := by decide

theorem witness_DecodedFormReencodes :
    decode (.cmd 0x000FFFFC#32) = .ok (.init 255 255 true true) ∧
    decode (.pulse 0x000000010000000000000001#96) = .ok (.pulseHi 1 1) ∧
    decode (.symbol 0b100010#6 13) = .ok (.symStop (some 0)) ∧ decode (.call 0b1001#4 3 true) = .ok .enDisable ∧
    decode (.call 0b0010#4 31 true) = .ok (.setPinMode 31) ∧ decode (.call 0b0011#4 5 true) = .ok (.writePin 5 true) := by decide

theorem witness_ReservedCommandWordsRefused :
    ({ idle with agenda := [.host 0x00000003#32 []] } : State).agenda = .host 0x00000003#32 [] :: [] ∧
    decode (.cmd 0x00000003#32) = .error .reservedCommand ∧ decode (.cmd 0x80000000#32) = .error .reservedCommand ∧
    decode (.cmd 0x00000006#32) = .error .reservedCommand := by decide

theorem witness_CommandWordFields :
    (0x000FFFFC#32).extractLsb' 0 2 = 0#2 ∧ (0x000FFFFC#32).extractLsb' 20 12 = 0#12 ∧
    (0xFFFFFFFD#32).extractLsb' 0 2 = 1#2 ∧ (0x00000002#32).extractLsb' 0 2 = 2#2 ∧
    (0x00000002#32).extractLsb' 2 30 = 0#30 := by decide

theorem witness_RoleOfPulseFromIndex :
    ([0x00, 0xA5] : List Byte)[1]? = some 0xA5 ∧ (frameSymbols [0x00, 0xA5])[23]? = some (.symStop (some 1)) := by decide

theorem witness_SymbolRecordForm :
    22 * Config.u < 2 ^ 32 ∧ plain.invertTx = false ∧ ({ plain with invertTx := true } : PinConfig).invertTx = true := by
  decide

theorem witness_EncoderMakesOnlyTxForms : ({ set := 0, clr := 0x20, dur := 88 } : Pulse) ∈ encodeRecords plain [0xFF] := by
  decide

theorem witness_EncodedRecordAtIndex : ([0x01, 0x80] : List Byte)[1]? = some 0x80 ∧ 7 < 8 := by decide

theorem witness_StartOffsets : 1 < ([0x01, 0x80] : List Byte).length ∧ 7 < 8 := by decide

theorem witness_SamplingRecoversPayload :
    ([0x01, 0x80] : List Byte)[1]? = some 0x80 ∧ 7 < 8 ∧
    encodeRecords plain [0x80] = encodeRecords plain ([0x00, 0x80].drop 1) := by decide

theorem witness_FrameOfSymbolsIsEncode : idle.cfg = some plain ∧ idle.ps.entry = [] := by decide

theorem witness_TxLevelDuringAndAfterFrame :
    (encodeRecords plain [])[3]? = some { set := 0x20, clr := 0, dur := 8 } ∧
    offsetMicros (encodeRecords plain []) 3 ≤ 139 ∧ 139 < offsetMicros (encodeRecords plain []) 4 ∧
    (35 + 11 * ([] : List Byte).length) * Config.u ≤ 140 := by decide

theorem witness_InitConfiguresTheBlock :
    Inv (blank [true] [true, true]) ∧ (blank [true] [true, true]).cfg = none ∧ (0 : Pin) ≠ 31 ∧
    (blank [true] [true, true]).env.engineInitOk = true :: [] ∧
    (blank [true] [true, true]).env.pinModeOk = true :: true :: [] := by decide

theorem witness_FirstErrorInOrder :
    (blank [] []).cfg = none ∧ (blank [] []).engUp = false ∧ (flying .wWait []).cfg ≠ none ∧ (flying .wWait []).tc.inflight = true ∧
    Inv (flying .wWait []) := by decide

theorem witness_FailedInitLeavesBlockAsItWas :
    Inv idle ∧ idle.cfg ≠ none ∧ Inv (blank [true] []) ∧ (blank [true] []).cfg = none ∧
    after (exec (.init 5 40 false false) (blank [true] [])) (fun t => t.cfg) = some none ∧
    Inv (blank [true, true] [true, true]) ∧ (blank [true, true] [true, true]).env.engineInitOk = true :: true :: [] ∧
    (blank [true, true] [true, true]).env.pinModeOk = true :: true :: [] := by
  refine ⟨?_, ?_, ?_, ?_, ?_, ?_, ?_, ?_⟩ <;> decide

theorem witness_TransmitByCondition :
    (blank [] []).cfg = none ∧ (flying .wSubmit []).cfg = some plain ∧ (flying .wSubmit []).tc.inflight = true ∧
    idle.cfg = some plain ∧ idle.tc.inflight = false ∧ payloadFits 513 = false ∧ payloadFits 512 = true := by decide

theorem witness_CloseByCondition :
    (flying .wDone []).tc.inflight = true ∧ idle.tc.inflight = false ∧ idle.engUp = true ∧
    (blank [] []).tc.inflight = false ∧ (blank [] []).engUp = false ∧ (blank [] []).cfg = none ∧
    after (exec .close idle) (fun t => t.cfg) = some none := by decide

theorem witness_CommandConditionTable :
    Inv (blank [] []) ∧ condition (blank [] []) = .unconfigured ∧ Inv idle ∧ condition idle = .configuredIdle ∧
    Inv (flying .wDone [.worker]) ∧ condition (flying .wDone [.worker]) = .inFlight ∧
    (flying .wDone [.worker]).tc.wstep = .wDone ∧ (flying .wDone [.worker]).agenda = .worker :: [] := by
  refine ⟨?_, ?_, ?_, ?_, ?_, ?_, ?_, ?_⟩ <;> decide

theorem witness_EngineInitByAnswer :
    engineAnswer (blank [true] []) = true ∧ engineAnswer (blank [false] []) = false ∧
    (blank [true] []).engUp = false ∧ (blank [false] []).engUp = false ∧ idle.engUp = true ∧
    (blank [true] []).env.engineInitOk = true :: [] := by decide

theorem witness_EngineTermClearsFlags : idle.engUp = true ∧ (blank [] []).engUp = false := by decide

theorem witness_SetPinModeResults :
    idle.engUp = true ∧ ¬ ((0 : Int) ≤ 32 ∧ (32 : Int) < 32) ∧ ¬ ((0 : Int) ≤ -1 ∧ (-1 : Int) < 32) ∧
    ((0 : Int) ≤ 31 ∧ (31 : Int) < 32) ∧ pinModeAnswer idle = true ∧
    pinModeAnswer { blank [] [false] with engUp := true } = false ∧ ({ blank [] [false] with engUp := true } : State).engUp = true := by
  decide

theorem witness_WritePinDrivesOneLine :
    idle.engUp = true ∧ lineMode idle 31 = .output ∧ lineMode (blank [] []) 31 ≠ .output ∧
    Config.validPin 32 = false := by decide

theorem witness_SubmitWaveCopiesPs :
    (flying .wSubmit []).ps.valid = true ∧ (flying .wSubmit []).engUp = true ∧ (flying .wSubmit []).wave.valid = false ∧
    (flying .wSubmit []).seq.busy = false ∧ (flying .wDone []).ps.valid = false ∧ (blank [] []).engUp = false ∧
    (flying .wWait []).wave.valid = true ∧ (playing 1 88 []).seq.busy = true := by decide

theorem witness_StartPlaybackSetsIndex :
    (flying .wStart []).engUp = true ∧ (flying .wStart []).wave.valid = true ∧ (flying .wStart []).seq.busy = false ∧
    idle.wave.valid = false ∧ (playing 1 88 []).seq.busy = true := by decide

theorem witness_IsBusyAnswersFlag : (playing 1 88 []).engUp = true ∧ (blank [] []).engUp = false := by decide

theorem witness_DeleteWaveInvalidates :
    (flying .wDelete []).engUp = true ∧ (flying .wDelete []).wave.valid = true ∧ (flying .wDelete []).seq.busy = false ∧
    idle.wave.valid = false ∧ (playing 1 88 []).seq.busy = true := by decide

theorem witness_CallsOutOfOrderRefused :
    (blank [] []).engUp = false ∧ ({ blank [] [] with engUp := true } : State).engUp = true ∧
    ({ blank [] [] with engUp := true } : State).cfg = none ∧ ¬ ((0 : Int) ≤ 32 ∧ (32 : Int) < 32) ∧ lineMode (blank [] []) 0 ≠ .output ∧
    (flying .wDone []).ps.valid = false ∧ (flying .wWait []).wave.valid = true ∧ (playing 1 88 []).seq.busy = true ∧
    idle.wave.valid = false ∧ (blank [] []).cfg = none := by decide

theorem witness_EnLineFollowsPolarity : idle.cfg = some plain ∧ idle.engUp = true ∧ lineMode idle plain.enPin = .output := by
  decide

theorem witness_PulseDrivesTxAndHolds : (playing 0 0 []).cfg = some plain ∧ (88#32 : Micros) ≠ 0#32 := by decide

theorem witness_ReservedRecordsRefused :
    (playing 0 0 []).cfg = some plain ∧ (0x40 : Mask) ≠ 1#32 <<< plain.txPin.val ∧ (0x40 : Mask) ≠ 0#32 := by decide

theorem witness_SymbolsWriteTheirRecords : idle.cfg = some plain := by decide

theorem witness_SymbolsRunWithoutConfiguration :
    encode (.symData1 0 7) = .symbol 0b100001#6 12 ∧ encode .symBreak = .symbol 0b010110#6 0 ∧
    encode (.symStop (some 511)) = .symbol 0b100010#6 5123 ∧ (blank [] []).cfg = none := by decide

theorem witness_OnlyInitAndCloseWriteConfiguration :
    after (exec .close idle) (fun t => t.cfg) = some none ∧ idle.cfg ≠ none ∧
    after (exec (.init 5 6 false false) (blank [true] [])) (fun t => t.cfg) = some (some plain) ∧
    after (workerStep (flying .wEnable [])) (fun t => t.cfg) = some (some plain) ∧
    after (seqStep (playing 0 0 [])) (fun t => t.cfg) = some (some plain) := by decide

theorem witness_FlagsChangeOnlyByTheirOperations :
    after (exec .engineTerm idle) (fun t => t.engUp) = some false ∧ idle.engUp = true ∧
    after (exec (.transmit 0) idle) (fun t => t.tc.inflight) = some true ∧
    after (exec .startPlayback (flying .wStart [])) (fun t => t.seq.busy) = some true ∧
    after (exec .deleteWave (flying .wDelete [])) (fun t => t.wave.valid) = some false ∧
    after (workerStep (flying .wDone [])) (fun t => t.tc.inflight) = some false ∧
    after (seqStep (playing 4 0 [])) (fun t => t.seq.busy) = some false := by decide

theorem witness_FrameByGroup :
    (after (exec (.init 5 6 false false) (blank [true] [])) fun _ => ()) = some () ∧
    (after (exec .isBusy idle) fun _ => ()) = some () ∧ (after (exec .enEnable idle) fun _ => ()) = some () ∧
    (after (exec (.pulseLo 0x20 8) idle) fun _ => ()) = some () ∧
    (after (exec (.symStart 0) idle) fun _ => ()) = some () ∧ idle.cfg ≠ none := by decide

theorem witness_LinesChangeOnlyByName :
    after (exec (.setPinMode 31) { blank [] [] with engUp := true }) (fun t => lineMode t 31) = some .output ∧
    lineMode (blank [] []) 31 ≠ .output ∧
    after (exec (.writePin 6 true) idle) (fun t => lineLevel t 6) = some true ∧ lineLevel idle 6 ≠ true := by decide

theorem witness_StepRunsDecodedOperation :
    ({ idle with agenda := [.host 0x00000005#32 [0xFF]] } : State).agenda = .host 0x00000005#32 [0xFF] :: [] ∧
    decode (.cmd 0x00000005#32) = .ok (.transmit 1) ∧
    ({ idle with agenda := [.internal (.call 6 0 false)] } : State).agenda = .internal (.call 6 0 false) :: [] ∧
    decode (.call 6 0 false) = .ok .isBusy := by decide

theorem witness_StepRunsFetchedRecord :
    (playing 3 0 []).seq.busy = true ∧ (playing 3 0 []).seq.rem = 0 ∧ (playing 3 0 []).wave.valid = true ∧
    (playing 3 0 []).wave.entry[3]? = some { set := 0x20, clr := 0, dur := 8 } ∧
    decodeRecord { set := 0x20, clr := 0, dur := 8 } = .ok (.pulseHi 0x20 8) ∧ (playing 3 0 []).agenda = [] ∧
    (playing 4 0 [.sequencer]).seq.idx = (playing 4 0 [.sequencer]).wave.entry.length ∧
    (playing 4 0 [.sequencer]).agenda = .sequencer :: [] := by decide

theorem witness_WorkerStepEffects :
    (∀ w ∈ [WorkerStep.wEnable, .wSubmit, .wStart, .wWait, .wDisable, .wDelete, .wFree, .wDone],
      Inv (flying w [.worker]) ∧ (flying w [.worker]).tc.inflight = true ∧ (flying w [.worker]).cfg = some plain ∧
      (flying w [.worker]).agenda = .worker :: [] ∧ (flying w [.worker]).tc.wstep = w ∧
      (flying w [.worker]).tc.look = 0 ∧ (flying w [.worker]).seq.busy = false) ∧
    Inv { playing 1 88 [.worker] with tc := { inflight := true, wstep := .wWait, n := 0, look := 0 } } := by
  constructor
  · intro w hw
    refine ⟨?_, ?_, ?_, ?_, ?_, ?_, ?_⟩ <;> (revert w; decide)
  · decide

theorem witness_StreamBecomesPayload : Memory.wf [(0, 0xFF), (3, 1)] = true ∧ [(0x00 : Byte), 0x80].length ≤ 2 := by decide

theorem witness_StepKeepsInvariants :
    Inv (playing 3 0 []) ∧ (after (step (playing 3 0 [])) fun _ => ()) = some () := by decide

theorem witness_StepKeepsFramesEncodings :
    Inv (flying .wSubmit []) ∧ FramesAreEncodings (flying .wSubmit []) ∧
      (after (step (flying .wSubmit [])) fun _ => ()) = some () := by
  refine ⟨by decide, ?_, by decide⟩
  intro c hc m hm hv
  cases hc
  exact ⟨[], rfl, by revert hv; fin_cases hm <;> decide⟩

theorem witness_BlockGoesOnForPoliteHost :
    Inv { idle with agenda := [.host 0x00000801#32 []] } ∧
    ¬ closesInFlight { idle with agenda := [.host 0x00000801#32 []] } ∧
    ¬ badCommand { idle with agenda := [.host 0x00000801#32 []] } := by
  refine ⟨by decide, fun h => absurd h.1 (by decide), ?_⟩
  rintro ⟨w, bs, rest, h, h2⟩
  cases h
  rcases h2 with h2 | ⟨n, h2, h3⟩
  · exact absurd h2 (by decide)
  · have : n = 512 := by
      have e : decode (.cmd 0x00000801#32) = .ok (.transmit 512) := by decide
      rw [e] at h2; cases h2; rfl
    subst this; exact absurd h3 (by decide)

theorem witness_OneDonePerAcceptedTransmit :
    acceptedCount ({ flying .wDone [] with trace := [.resp .transmit .ok] } : State).trace =
      doneCount ({ flying .wDone [] with trace := [.resp .transmit .ok] } : State).trace +
        (if (flying .wDone []).tc.inflight then 1 else 0) ∧
    (after (step { flying .wDone [] with trace := [.resp .transmit .ok] }) fun _ => ()) = some () := by decide

theorem witness_EnAndTxNeverDisturbEachOther :
    Inv (playing 0 0 []) ∧ (playing 0 0 []).cfg = some plain ∧
    (after (runRecord { set := 0, clr := 0x20, dur := 88 } (playing 0 0 [])) fun _ => ()) = some () ∧
    (after (writeEn true idle) fun _ => ()) = some () ∧ (blank [true] []).cfg = none ∧
    (blank [true] []).engUp = false ∧ engineAnswer (blank [true] []) = true := by decide

theorem witness_DriverOnAroundEveryPulse :
    Inv (playing 0 0 []) ∧
    after (step (playing 0 0 [])) (fun t => t.trace) = some ((playing 0 0 []).trace ++ [.pulse 0 0 0x20 88]) := by decide

theorem witness_RecordHeldExactlyItsDuration :
    Inv (playing 1 88 []) ∧ (playing 1 88 []).seq.busy = true ∧ (playing 1 88 []).seq.idx ≠ 0 ∧
    (after (step (playing 1 88 [])) fun _ => ()) = some () ∧ (after (step (playing 1 0 [])) fun _ => ()) = some () ∧
    (after (step (playing 4 0 [])) fun _ => ()) = some () := by decide

theorem witness_CommandsInFlightOnlyRejected :
    Inv (flying .wStart [.host 0x00000005#32 [0xFF]]) ∧ (flying .wStart [.host 0x00000005#32 [0xFF]]).tc.inflight = true ∧
    (flying .wStart [.host 0x00000005#32 [0xFF]]).agenda = .host 0x00000005#32 [0xFF] :: [] ∧
    (after (step (flying .wStart [.host 0x00000005#32 [0xFF]])) fun _ => ()) = some () := by decide

theorem witness_PayloadNotReadAfterAcceptance :
    (flying .wEnable []).tc.inflight = true ∧ (after (step (flying .wEnable [])) fun _ => ()) = some () := by decide

theorem witness_TransmissionRunsToDone :
    Inv idle ∧ idle.cfg = some plain ∧ idle.agenda = [] ∧ idle.tc.inflight = false ∧ payloadFits 512 = true ∧
    (after (exec (.transmit 0) idle) fun _ => ()) = some () := by decide

theorem witness_EnFallsNineUnitsAfterFrame :
    Inv (flying .wStart []) ∧ FramesAreEncodings (flying .wStart []) ∧ (flying .wStart []).cfg = some plain ∧
    (flying .wStart []).agenda = [] ∧ (flying .wStart []).tc.inflight = true ∧ (flying .wStart []).tc.wstep = .wStart := by
  refine ⟨by decide, ?_, by decide⟩
  intro c hc m hm hv
  cases hc
  exact ⟨[], rfl, by revert hv; fin_cases hm <;> decide⟩

end Sys2Proof.Tests
end

/-! SUPPORT. What every operation can do, said once: the three host commands by their results, and `ExecEffect`, one
constructor for each way an operation answers a next state. -/

namespace Sys2Proof.Machine

variable {s t : State}

/-! ### The host commands -/

/-- INIT's pin-mode step: an error with the engine terminated, or the line made an output; either way a draw may have been
used up. -/
theorem initPin_cases (p : Int) (s : State) :
    (∃ e env, e ≠ .ok ∧ initPin p s = (.error e, engineTerm { s with env := env })) ∨
    (∃ (q : Pin) (env : Environment), p = q.val ∧ initPin p s = (.ok q, setMode q .output { s with env := env })) := by
  unfold initPin
  rcases setPinMode_cases p s with ⟨-, h⟩ | ⟨q, -, -, h⟩ | ⟨q, hq, -, h⟩ <;> rw [h]
  · exact .inl ⟨.invalidPinError, s.env, by decide, rfl⟩
  · exact .inl ⟨.pinModeError, (takePinModeAnswer s).env, by decide, rfl⟩
  · exact .inr ⟨q, (takePinModeAnswer s).env, pinOf_eq_some.1 hq, rfl⟩

/-- INIT from the line where the engine is up: a roll-back with no line touched, a roll-back after TX was made an output,
or the configuration of two distinct lines (R201, R251). -/
theorem initPins_cases (a b : Int) (x y : Bool) (s : State) :
    (∃ e env, e ≠ .ok ∧ initPins a b x y s = (e, engineTerm { s with env := env })) ∨
    (∃ (tx : Pin) (e : Code) (env : Environment), a = tx.val ∧ e ≠ .ok ∧
      initPins a b x y s = (e, engineTerm (setMode tx .output { s with env := env }))) ∨
    (∃ (tx en : Pin) (env : Environment), a = tx.val ∧ b = en.val ∧ tx ≠ en ∧
      initPins a b x y s =
        (.ok, configure tx en x y (setMode en .output (setMode tx .output { s with env := env })))) := by
  unfold initPins
  split
  · exact .inl ⟨.samePinError, s.env, by decide, rfl⟩
  next hab =>
  rcases initPin_cases a s with ⟨e, env, he, h⟩ | ⟨tx, env, rfl, h⟩ <;> rw [h]
  · exact .inl ⟨e, env, he, rfl⟩
  rcases initPin_cases b (setMode tx .output { s with env := env }) with ⟨e, env', he, h'⟩ | ⟨en, env', rfl, h'⟩ <;>
    simp only [h']
  · exact .inr (.inl ⟨tx, e, env', rfl, he, rfl⟩)
  · exact .inr (.inr ⟨tx, en, env', rfl, rfl, fun h => hab (by rw [h]), rfl⟩)

/-- TRANSMIT answers a next state by a rejection, or by accepting the payload. -/
theorem execTransmit_cases {n : Nat} (h : execTransmit n s = .next t) :
    (∃ e, e ≠ .ok ∧ t = raise .transmit e s) ∨
    (∃ c, s.cfg = some c ∧ s.tc.inflight = false ∧ payloadFits n = true ∧
      t = respond .transmit .ok (accept c n s)) := by
  unfold execTransmit at h
  split at h
  · cases h; exact .inl ⟨_, by decide, rfl⟩
  next c hc =>
  split at h
  · cases h; exact .inl ⟨_, by decide, rfl⟩
  next hi =>
  split at h
  · next hf => cases h; exact .inr ⟨c, hc, by simpa using hi, hf, rfl⟩
  · cases h

/-- CLOSE answers a next state only with no transmission in flight. -/
theorem execClose_eq_next :
    execClose s = .next t ↔
      s.tc.inflight = false ∧ t = respond .close .ok (engineTerm { s with cfg := none }) := by
  unfold execClose
  cases s.tc.inflight <;> simp [eq_comm]

/-! ### Every operation -/

/-- The ways an operation can answer a next state, each with the state it then answers. -/
inductive ExecEffect (s : State) : Instr → State → Prop
  | initConfigured (a b : Int) (x y : Bool) (hcfg : s.cfg ≠ none) :
      ExecEffect s (.init a b x y) (respond .init .alreadyInitialized s)
  | initNoEngine (a b : Int) (x y : Bool) (hcfg : s.cfg = none) (hdown : s.engUp = false) :
      ExecEffect s (.init a b x y) (respond .init .hardwareInitFailed (takeEngineAnswer s))
  | initRolledBack (a b : Int) (x y : Bool) (e : Code) (env : Environment) (hcfg : s.cfg = none)
      (hdown : s.engUp = false) (herr : e ≠ .ok) :
      ExecEffect s (.init a b x y) (respond .init e (engineTerm (setEngUp true { s with env := env })))
  | initRolledBackTx (tx : Pin) (b : Int) (x y : Bool) (e : Code) (env : Environment) (hcfg : s.cfg = none)
      (hdown : s.engUp = false) (herr : e ≠ .ok) :
      ExecEffect s (.init tx.val b x y)
        (respond .init e (engineTerm (setEngUp true (setMode tx .output { s with env := env }))))
  | initDone (tx en : Pin) (x y : Bool) (env : Environment) (hcfg : s.cfg = none) (hdown : s.engUp = false)
      (hne : tx ≠ en) :
      ExecEffect s (.init tx.val en.val x y)
        (respond .init .ok (configure tx en x y (setMode en .output (setMode tx .output
          (setWaveValid false (setBusy false (setEngUp true { s with env := env })))))))
  | transmitRejected (n : Nat) (e : Code) (herr : e ≠ .ok) : ExecEffect s (.transmit n) (raise .transmit e s)
  | transmitAccepted (n : Nat) (c : PinConfig) (hcfg : s.cfg = some c) (hidle : s.tc.inflight = false)
      (hfits : payloadFits n = true) : ExecEffect s (.transmit n) (respond .transmit .ok (accept c n s))
  | close (hidle : s.tc.inflight = false) :
      ExecEffect s .close (respond .close .ok (engineTerm { s with cfg := none }))
  | engineInitOk (hdown : s.engUp = false) :
      ExecEffect s .engineInit
        (answer .ok (setWaveValid false (setBusy false (setEngUp true (takeEngineAnswer s)))))
  | engineInitErr (hdown : s.engUp = false) : ExecEffect s .engineInit (answer .engineErr (takeEngineAnswer s))
  | engineTerm : ExecEffect s .engineTerm (engineTerm s)
  | setPinModeErr (p : Int) (e : PinError) (env : Environment) (hup : s.engUp = true) :
      ExecEffect s (.setPinMode p) (answer (.pinErr e) { s with env := env })
  | setPinMode (p : Pin) (env : Environment) (hup : s.engUp = true) :
      ExecEffect s (.setPinMode p.val) (answer .ok (setMode p .output { s with env := env }))
  | writePin (p : Pin) (b : Bool) (hup : s.engUp = true) (hmode : lineMode s p = .output) :
      ExecEffect s (.writePin p.val b) (answer .ok (drivePin p b s))
  | submitWave (hps : s.ps.valid = true) (hup : s.engUp = true) (hwave : s.wave.valid = false)
      (hbusy : s.seq.busy = false) :
      ExecEffect s .submitWave (answer .handle { s with wave := { valid := true, entry := s.ps.entry } })
  | startPlayback (hup : s.engUp = true) (hwave : s.wave.valid = true) (hbusy : s.seq.busy = false) :
      ExecEffect s .startPlayback { s with seq := { s.seq with idx := 0, busy := true } }
  | isBusy : ExecEffect s .isBusy (answer (.busy (isBusy s)) s)
  | deleteWave (hup : s.engUp = true) (hwave : s.wave.valid = true) (hbusy : s.seq.busy = false) :
      ExecEffect s .deleteWave (setWaveValid false s)
  | enEnable (c : PinConfig) (hcfg : s.cfg = some c) (hup : s.engUp = true) (hmode : lineMode s c.enPin = .output) :
      ExecEffect s .enEnable (drivePin c.enPin (physicalEn true c.invertEn) s)
  | enDisable (c : PinConfig) (hcfg : s.cfg = some c) (hup : s.engUp = true) (hmode : lineMode s c.enPin = .output) :
      ExecEffect s .enDisable (drivePin c.enPin (physicalEn false c.invertEn) s)
  | pulseHi (p : Pin) (d : Micros) (htx : ∀ c ∈ s.cfg, p = c.txPin) (hdur : d ≠ 0) :
      ExecEffect s (.pulseHi (pinMask p) d) (applyRecord { set := pinMask p, clr := 0, dur := d } s)
  | pulseLo (p : Pin) (d : Micros) (htx : ∀ c ∈ s.cfg, p = c.txPin) (hdur : d ≠ 0) :
      ExecEffect s (.pulseLo (pinMask p) d) (applyRecord { set := 0, clr := pinMask p, dur := d } s)
  | symbol (i : Instr) (k : Nat) (r : Pulse) (hgroup : opGroup i = .symbol) :
      ExecEffect s i (setPsRecord k r (afterReadConfig s))

/-- The answer ENGINE_INIT took is no more to be seen once the environment's answers are replaced. -/
theorem engineUp_with_env (s : State) (env : Environment) :
    { setWaveValid false (setBusy false (setEngUp true (takeEngineAnswer s))) with env := env } =
      setWaveValid false (setBusy false (setEngUp true { s with env := env })) := by
  unfold takeEngineAnswer
  split <;> rfl

/-- INIT's effects. -/
theorem execInit_effect {a b : Int} {x y : Bool} (h : execInit a b x y s = .next t) :
    ExecEffect s (.init a b x y) t := by
  obtain ⟨r, hr, rfl⟩ := execInit_eq_next.1 h
  unfold initResult at hr
  split at hr
  · next hv => cases hr; exact .initConfigured a b x y (Option.isSome_iff_ne_none.1 hv)
  next hv =>
  have hcfg : s.cfg = none := by simpa [cfgValid] using hv
  rcases engineInit_cases (s := s) with ⟨-, he⟩ | ⟨hdown, -, he⟩ | ⟨hdown, -, he⟩ <;> rw [he] at hr <;> cases hr
  · rcases initPins_cases a b x y (setWaveValid false (setBusy false (setEngUp true (takeEngineAnswer s)))) with
      ⟨e, env, herr, hp⟩ | ⟨tx, e, env, rfl, herr, hp⟩ | ⟨tx, en, env, rfl, rfl, hne, hp⟩ <;>
      simp only [hp, if_true, engineUp_with_env]
    · exact .initRolledBack a b x y e env hcfg hdown herr
    · exact .initRolledBackTx tx b x y e env hcfg hdown herr
    · exact .initDone tx en x y env hcfg hdown hne
  · exact .initNoEngine a b x y hcfg hdown

/-- A pulse form's effect: its record is not reserved, so its mask is that of one line, TX under a configuration. -/
theorem execPulseHi_effect {m : Mask} {d : Micros} (h : execPulseHi m d s = .next t) :
    ExecEffect s (.pulseHi m d) t := by
  obtain ⟨hres, rfl⟩ := playRecord_eq_next.1 h
  obtain ⟨p, htx, hdur, hr | hr⟩ := reservedRecord_eq_false.1 hres
  · cases (Pulse.mk.inj hr).1; exact .pulseHi p d htx hdur
  · exact absurd (Pulse.mk.inj hr).2.1.symm (pinMask_ne_zero p)

theorem execPulseLo_effect {m : Mask} {d : Micros} (h : execPulseLo m d s = .next t) :
    ExecEffect s (.pulseLo m d) t := by
  obtain ⟨hres, rfl⟩ := playRecord_eq_next.1 h
  obtain ⟨p, htx, hdur, hr | hr⟩ := reservedRecord_eq_false.1 hres
  · exact absurd (Pulse.mk.inj hr).1.symm (pinMask_ne_zero p)
  · cases (Pulse.mk.inj hr).2.1; exact .pulseLo p d htx hdur

/-- SET_PIN_MODE's effects. -/
theorem execSetPinMode_effect {p : Int} (h : execSetPinMode p s = .next t) : ExecEffect s (.setPinMode p) t := by
  unfold execSetPinMode at h
  split at h
  · next hup =>
    cases h
    rcases setPinMode_cases p s with ⟨-, h⟩ | ⟨q, -, -, h⟩ | ⟨q, hq, -, h⟩ <;> rw [h]
    · exact .setPinModeErr p .invalidPin s.env hup
    · exact .setPinModeErr p .pinMode (takePinModeAnswer s).env hup
    · cases pinOf_eq_some.1 hq; exact .setPinMode q (takePinModeAnswer s).env hup
  · cases h

/-- ENGINE_INIT's effects. -/
theorem execEngineInit_effect (h : execEngineInit s = .next t) : ExecEffect s .engineInit t := by
  unfold execEngineInit at h
  rcases engineInit_cases (s := s) with ⟨-, he⟩ | ⟨hdown, -, he⟩ | ⟨hdown, -, he⟩ <;> rw [he] at h <;> cases h
  · exact .engineInitOk hdown
  · exact .engineInitErr hdown

/-- A symbol's effect. -/
theorem putSymbol_effect {i : Instr} {k n : Nat} {l : Logical} (hgroup : opGroup i = .symbol)
    (h : putSymbol k l n s = .next t) : ExecEffect s i t := by
  cases h; exact .symbol i k _ hgroup

/-- An operation answers a next state only by one of its effects. -/
theorem exec_effect {i : Instr} (h : exec i s = .next t) : ExecEffect s i t := by
  cases i with
  | init a b x y => exact execInit_effect h
  | transmit n =>
    obtain ⟨e, herr, rfl⟩ | ⟨c, hcfg, hidle, hfits, rfl⟩ := execTransmit_cases h
    · exact .transmitRejected n e herr
    · exact .transmitAccepted n c hcfg hidle hfits
  | close => obtain ⟨hidle, rfl⟩ := execClose_eq_next.1 h; exact .close hidle
  | engineInit => exact execEngineInit_effect h
  | engineTerm => cases h; exact .engineTerm
  | setPinMode p => exact execSetPinMode_effect h
  | writePin p b =>
    obtain ⟨u, hu, rfl⟩ := andThen_eq_next.1 h
    obtain ⟨q, hq, hup, hmode, rfl⟩ := writePin_eq_next.1 hu
    cases pinOf_eq_some.1 hq
    exact .writePin q b hup hmode
  | submitWave =>
    obtain ⟨u, hu, rfl⟩ := andThen_eq_next.1 h
    obtain ⟨⟨hps, hup, hwave, hbusy⟩, rfl⟩ := submitWave_eq_next.1 hu
    exact .submitWave hps hup hwave hbusy
  | startPlayback =>
    obtain ⟨⟨hup, hwave, hbusy⟩, rfl⟩ := startPlayback_eq_next.1 h
    exact .startPlayback hup hwave hbusy
  | isBusy => cases h; exact .isBusy
  | deleteWave =>
    obtain ⟨⟨hup, hwave, hbusy⟩, rfl⟩ := deleteWave_eq_next.1 h
    exact .deleteWave hup hwave hbusy
  | enEnable =>
    obtain ⟨c, hcfg, hup, hmode, rfl⟩ := writeEn_eq_next.1 h
    exact .enEnable c hcfg hup hmode
  | enDisable =>
    obtain ⟨c, hcfg, hup, hmode, rfl⟩ := writeEn_eq_next.1 h
    exact .enDisable c hcfg hup hmode
  | pulseHi m d => exact execPulseHi_effect h
  | pulseLo m d => exact execPulseLo_effect h
  | symBreak => exact putSymbol_effect rfl h
  | symMab => exact putSymbol_effect rfl h
  | symSc => exact putSymbol_effect rfl h
  | symStart i => exact putSymbol_effect rfl h
  | symData0 i j => exact putSymbol_effect rfl h
  | symData1 i j => exact putSymbol_effect rfl h
  | symStop i => cases i <;> exact putSymbol_effect rfl h

end Sys2Proof.Machine

/-! SUPPORT. Which operations and steps may change the configuration, the flags and the lines (R23, R26, R27, R37). -/

namespace Sys2Proof.Machine

variable {s t : State}

/-! ### What ENGINE_TERM and the writing of the configuration leave alone -/

@[simp] theorem engineTerm_cfg (s : State) : (engineTerm s).cfg = s.cfg := by simp [engineTerm_eq]
@[simp] theorem engineTerm_engUp (s : State) : (engineTerm s).engUp = false := by simp [engineTerm_eq]
@[simp] theorem engineTerm_ps (s : State) : (engineTerm s).ps = s.ps := by simp [engineTerm_eq]
@[simp] theorem engineTerm_tc (s : State) : (engineTerm s).tc = s.tc := by simp [engineTerm_eq]

@[simp] theorem configure_cfg (a b : Pin) (x y : Bool) (s : State) :
    (configure a b x y s).cfg = some { txPin := a, enPin := b, invertTx := x, invertEn := y } := rfl
@[simp] theorem configure_ps (a b : Pin) (x y : Bool) (s : State) : (configure a b x y s).ps = s.ps := rfl
@[simp] theorem configure_tc (a b : Pin) (x y : Bool) (s : State) : (configure a b x y s).tc = s.tc := rfl

/-! ### What the other updates leave alone -/

@[simp] theorem accept_cfg (c : PinConfig) (n : Nat) (s : State) : (accept c n s).cfg = s.cfg := rfl
@[simp] theorem accept_engUp (c : PinConfig) (n : Nat) (s : State) : (accept c n s).engUp = s.engUp := rfl
@[simp] theorem accept_wave (c : PinConfig) (n : Nat) (s : State) : (accept c n s).wave = s.wave := rfl
@[simp] theorem accept_seq (c : PinConfig) (n : Nat) (s : State) : (accept c n s).seq = s.seq := rfl

/-- A state with the GPIO bank of `s` has its lines' modes and levels. -/
@[simp] theorem lineMode_mk_gpio {cfg engUp ps wave seq tc buf env callResult agenda trace now} (s : State) (p : Pin) :
    lineMode ⟨cfg, engUp, s.gpio, ps, wave, seq, tc, buf, env, callResult, agenda, trace, now⟩ p = lineMode s p := rfl

@[simp] theorem lineLevel_mk_gpio {cfg engUp ps wave seq tc buf env callResult agenda trace now} (s : State) (p : Pin) :
    lineLevel ⟨cfg, engUp, s.gpio, ps, wave, seq, tc, buf, env, callResult, agenda, trace, now⟩ p = lineLevel s p := rfl

@[simp] theorem lineMode_accept (c : PinConfig) (n : Nat) (s : State) (p : Pin) :
    lineMode (accept c n s) p = lineMode s p := rfl

@[simp] theorem lineLevel_accept (c : PinConfig) (n : Nat) (s : State) (p : Pin) :
    lineLevel (accept c n s) p = lineLevel s p := rfl

@[simp] theorem lineMode_afterReadConfig (s : State) (p : Pin) : lineMode (afterReadConfig s) p = lineMode s p :=
  lineMode_congr (afterReadConfig_gpio s) p

@[simp] theorem lineLevel_afterReadConfig (s : State) (p : Pin) : lineLevel (afterReadConfig s) p = lineLevel s p :=
  lineLevel_congr (afterReadConfig_gpio s) p

/-! ### The configuration (R23) -/

/-- An operation that changes the configuration is CLOSE or an INIT that succeeds. -/
theorem exec_cfg_changed {i : Instr} (h : exec i s = .next t) (hne : t.cfg ≠ s.cfg) :
    (i = .close ∧ t.cfg = none) ∨
    (s.cfg = none ∧ ∃ tx en : Pin, ∃ x y, i = .init tx.val en.val x y ∧
      t.cfg = some { txPin := tx, enPin := en, invertTx := x, invertEn := y }) := by
  cases exec_effect h with
  | close => exact .inl ⟨rfl, by simp⟩
  | initDone tx en x y env hcfg => exact .inr ⟨hcfg, tx, en, x, y, rfl, by simp⟩
  | _ => simp at hne

/-- The worker leaves the configuration and the engine's flag alone. -/
theorem workerStep_cfg_engUp (h : workerStep s = .next t) : t.cfg = s.cfg ∧ t.engUp = s.engUp := by
  rcases workerStep_eq_next h with ⟨-, c, -, -, rfl⟩ | ⟨-, -, -, -, rfl⟩ | ⟨-, -, -, rfl⟩ | ⟨-, -, rfl⟩ |
    ⟨-, -, rfl⟩ | ⟨-, c, -, -, rfl⟩ | ⟨-, -, -, rfl⟩ | ⟨-, rfl⟩ | ⟨-, rfl⟩ <;> exact ⟨rfl, rfl⟩

/-- The sequencer writes the lines, SEQ and the trace alone; SEQ.busy only by finishing. -/
theorem seqStep_frame (h : seqStep s = .next t) :
    t.cfg = s.cfg ∧ t.engUp = s.engUp ∧ t.tc = s.tc ∧ t.ps = s.ps ∧ t.wave = s.wave ∧
      (t.seq.busy = s.seq.busy ∨ (t.seq.busy = false ∧ t.trace = s.trace ++ [.idle])) := by
  obtain ⟨-, ⟨r, -, -, rfl⟩ | ⟨-, rfl⟩⟩ := seqStep_eq_next.1 h
  · exact ⟨rfl, rfl, rfl, rfl, rfl, .inl rfl⟩
  · exact ⟨rfl, rfl, rfl, rfl, rfl, .inr ⟨rfl, rfl⟩⟩

/-- Settles O39: the operations by their effects, the steps by their frames. -/
theorem onlyInitAndCloseWriteConfiguration : Obligations.OnlyInitAndCloseWriteConfiguration := by
  refine ⟨fun i s t h hne => exec_cfg_changed h hne, fun s t h => ?_, fun s n => rfl⟩
  rcases h with h | h
  · exact (workerStep_cfg_engUp h).1
  · exact (seqStep_frame h).1

/-! ### The flags (R37) -/

/-- The operations that can change each flag, and the whole of TC: every effect writes only what its operation is listed
for here. -/
theorem exec_flags_changed {i : Instr} (h : exec i s = .next t) :
    (t.engUp ≠ s.engUp → i = .close ∨ i = .engineInit ∨ i = .engineTerm ∨ ∃ a b x y, i = .init a b x y) ∧
    (t.tc ≠ s.tc → ∃ n, i = .transmit n) ∧
    (t.seq.busy ≠ s.seq.busy →
      i = .startPlayback ∨ i = .close ∨ i = .engineInit ∨ i = .engineTerm ∨ ∃ a b x y, i = .init a b x y) ∧
    (t.ps.valid ≠ s.ps.valid → ∃ n, i = .transmit n) ∧
    (t.wave.valid ≠ s.wave.valid →
      i = .submitWave ∨ i = .deleteWave ∨ i = .close ∨ i = .engineInit ∨ i = .engineTerm ∨
        ∃ a b x y, i = .init a b x y) := by
  cases exec_effect h <;> simp

/-- The worker's steps that can change each flag. -/
theorem workerStep_flags_changed (h : workerStep s = .next t) :
    (t.tc.inflight ≠ s.tc.inflight → s.tc.wstep = .wDone) ∧ (t.seq.busy ≠ s.seq.busy → s.tc.wstep = .wStart) ∧
    (t.ps.valid ≠ s.ps.valid → s.tc.wstep = .wFree) ∧
    (t.wave.valid ≠ s.wave.valid → s.tc.wstep = .wSubmit ∨ s.tc.wstep = .wDelete) := by
  rcases workerStep_eq_next h with ⟨hw, c, -, -, rfl⟩ | ⟨hw, -, -, -, rfl⟩ | ⟨hw, -, -, rfl⟩ | ⟨hw, -, rfl⟩ |
    ⟨hw, -, rfl⟩ | ⟨hw, c, -, -, rfl⟩ | ⟨hw, -, -, rfl⟩ | ⟨hw, rfl⟩ | ⟨hw, rfl⟩ <;> simp [hw]

/-- Settles O40: the operations by their effects, the worker by its steps, the sequencer by its frame. -/
theorem flagsChangeOnlyByTheirOperations : Obligations.FlagsChangeOnlyByTheirOperations := by
  refine ⟨fun i s t h => exec_flags_changed h, fun s t h => ⟨(workerStep_cfg_engUp h).2, workerStep_flags_changed h⟩,
    fun s t h => ?_⟩
  obtain ⟨-, hup, htc, hps, hwave, hbusy⟩ := seqStep_frame h
  refine ⟨hup, htc, hps, hwave, fun hne => ?_⟩
  obtain hsame | ⟨hfell, htrace⟩ := hbusy
  · exact absurd hsame hne
  · exact ⟨by simpa [hfell] using hne, htrace⟩

/-! ### The lines (R26, R27, R66) -/

/-- A line's mode changes only to Output, by SET_PIN_MODE or INIT of that line. -/
theorem exec_lineMode_changed {i : Instr} {p : Pin} (h : exec i s = .next t) (hne : lineMode t p ≠ lineMode s p) :
    lineMode t p = .output ∧
      (i = .setPinMode p.val ∨ ∃ a b x y, i = .init a b x y ∧ ((p.val : Int) = a ∨ (p.val : Int) = b)) := by
  cases exec_effect h with
  | initRolledBackTx tx b x y e env =>
    obtain rfl : p = tx := by by_contra hp; exact hne (by simp [hp])
    exact ⟨by simp, .inr ⟨_, b, x, y, rfl, .inl rfl⟩⟩
  | initDone tx en x y env =>
    have hp : p = tx ∨ p = en := by by_contra hp; exact hne (by simp [not_or.1 hp])
    exact ⟨by simp; tauto, .inr ⟨_, _, x, y, rfl, by simpa [Fin.ext_iff] using hp⟩⟩
  | setPinMode q env hup =>
    obtain rfl : p = q := by by_contra hp; exact hne (by simp [hp])
    exact ⟨by simp, .inl rfl⟩
  | _ => simp at hne

/-- A line's level changes only by an operation that drives that line. -/
theorem exec_lineLevel_changed {i : Instr} {p : Pin} (h : exec i s = .next t) (hne : lineLevel t p ≠ lineLevel s p) :
    (∃ b, i = .writePin p.val b) ∨ (∃ a x y, i = .init a p.val x y) ∨
    (∃ c, s.cfg = some c ∧ c.enPin = p ∧ (i = .enEnable ∨ i = .enDisable)) ∨
    ((∀ c ∈ s.cfg, c.txPin = p) ∧ ∃ d, i = .pulseHi (1#32 <<< p.val) d ∨ i = .pulseLo (1#32 <<< p.val) d) := by
  cases exec_effect h with
  | initDone tx en x y env =>
    obtain rfl : p = en := by by_contra hp; exact hne (by simp [hp])
    exact .inr (.inl ⟨_, x, y, rfl⟩)
  | writePin q b hup =>
    obtain rfl : p = q := by by_contra hp; exact hne (by simp [hp])
    exact .inl ⟨b, rfl⟩
  | enEnable c hcfg =>
    obtain rfl : p = c.enPin := by by_contra hp; exact hne (by simp [hp])
    exact .inr (.inr (.inl ⟨c, hcfg, rfl, .inl rfl⟩))
  | enDisable c hcfg =>
    obtain rfl : p = c.enPin := by by_contra hp; exact hne (by simp [hp])
    exact .inr (.inr (.inl ⟨c, hcfg, rfl, .inr rfl⟩))
  | pulseHi q d htx hdur =>
    obtain rfl : p = q := by by_contra hp; exact hne (by rw [lineLevel_applyRecord, recordLevel_hi, if_neg hp])
    exact .inr (.inr (.inr ⟨fun c hc => (htx c hc).symm, d, .inl rfl⟩))
  | pulseLo q d htx hdur =>
    obtain rfl : p = q := by by_contra hp; exact hne (by rw [lineLevel_applyRecord, recordLevel_lo, if_neg hp])
    exact .inr (.inr (.inr ⟨fun c hc => (htx c hc).symm, d, .inr rfl⟩))
  | _ => simp at hne

/-- Settles O42: the modes and the levels apart, each by the operations' effects. -/
theorem linesChangeOnlyByName : Obligations.LinesChangeOnlyByName :=
  fun _ _ _ _ h => ⟨exec_lineMode_changed h, exec_lineLevel_changed h⟩

end Sys2Proof.Machine

/-! SUPPORT. The invariants kept by every step (R22, R31, R45, R194): what they say of an idle and of an unconfigured block,
then each agent's moves. -/

namespace Sys2Proof.Machine

variable {s t : State}

/-! ### The encoder's records fill a pulse memory -/

theorem byteRecords_length (c : PinConfig) (b : Byte) : (byteRecords c b).length = 10 := by simp [byteRecords]

/-- `encode` makes `4 + 10·N` records (R141). -/
theorem encodeRecords_length (c : PinConfig) (bytes : List Byte) :
    (encodeRecords c bytes).length = 4 + 10 * bytes.length := by
  simp [encodeRecords, preambleRecords, byteRecords_length, List.length_flatMap]
  omega

/-- Every record `encode` makes is a symbol's, of 1, 2, 9 or 22 units. -/
theorem mem_encodeRecords {c : PinConfig} {bytes : List Byte} {r : Pulse} (h : r ∈ encodeRecords c bytes) :
    ∃ l, ∃ n ∈ [1, 2, 9, 22], r = mkPulse c l n := by
  simp only [encodeRecords, preambleRecords, byteRecords, List.mem_append, List.mem_flatMap, List.mem_cons,
    List.mem_map, List.not_mem_nil, or_false] at h
  rcases h with (rfl | rfl | rfl | rfl) | ⟨b, -, (rfl | ⟨j, -, rfl⟩) | rfl⟩
  all_goals exact ⟨_, _, by decide, rfl⟩

/-- A symbol's record is of a form the sequencer accepts. -/
theorem reservedRecord_mkPulse {c : PinConfig} {n : Nat} (hn : duration n ≠ 0) (l : Logical) :
    reservedRecord (some c) (mkPulse c l n) = false := by
  refine reservedRecord_eq_false.2 ⟨c.txPin, by simp, ?_⟩
  unfold mkPulse
  split
  · exact ⟨hn, .inl rfl⟩
  · exact ⟨hn, .inr rfl⟩

/-- Every record `encode` makes is of a form the sequencer accepts (R91). -/
theorem reservedRecord_encodeRecords {c : PinConfig} {bytes : List Byte} :
    ∀ r ∈ encodeRecords c bytes, reservedRecord (some c) r = false := by
  intro r hr
  obtain ⟨l, n, hn, rfl⟩ := mem_encodeRecords hr
  have hdur : ∀ n ∈ [1, 2, 9, 22], duration n ≠ 0 := by decide
  exact reservedRecord_mkPulse (hdur n hn) l

/-! ### The invariants of an idle and of an unconfigured block -/

/-- With no transmission in flight the invariants say that nothing is valid, playing or held, and that EN is inactive. -/
theorem inv_idle_iff (hidle : s.tc.inflight = false) :
    Inv s ↔ EngineMirrorsConfig s ∧ PinsDistinct s ∧ PinsAreOutputs s ∧
      (∀ c ∈ s.cfg, lineLevel s c.enPin = c.invertEn) ∧ s.seq.busy = false ∧ s.seq.rem = 0 ∧ s.ps.valid = false ∧
      s.wave.valid = false ∧ Memory.wf s.buf = true ∧ ExternalOnly s := by
  have hact : enActive s = false := by simp [enActive, hidle]
  have hheld : waveHeld s = false := by simp [waveHeld, hidle]
  constructor
  · rintro ⟨hmirror, hdist, -, hwait, hwave, hps, hout, hen, -, -, -, hhold, -, hbuf, hext⟩
    have hbusy : s.seq.busy = false := by
      by_contra hb
      simpa [hidle] using (hwait (by simpa using hb)).1
    exact ⟨hmirror, hdist, hout, by simpa [EnFollowsWorker, hact] using hen, hbusy, hhold hbusy,
      by simpa [PsValidUntilFreed, hidle] using hps,
      hwave.trans hheld, hbuf, hext⟩
  · rintro ⟨hmirror, hdist, hout, hen, hbusy, hrem, hps, hwave, hbuf, hext⟩
    exact ⟨hmirror, hdist, by simp [InflightConfigured, hidle], by simp [BusyOnlyInWait, hbusy], hwave.trans hheld.symm,
      by simp [PsValidUntilFreed, hps, hidle], hout, by simpa [EnFollowsWorker, hact] using hen, by simp [HoldsFrame, hps],
      by simp [HoldsFrame, hwave], by simp [IndexInRange, hbusy], fun _ => hrem, by simp [PayloadAdmitted, hidle],
      hbuf, hext⟩

/-- With no configuration the invariants say that every flag is 0 and no hold is left. -/
theorem inv_unconfigured_iff (hcfg : s.cfg = none) :
    Inv s ↔ s.engUp = false ∧ s.tc.inflight = false ∧ s.seq.busy = false ∧ s.seq.rem = 0 ∧ s.ps.valid = false ∧
      s.wave.valid = false ∧ Memory.wf s.buf = true ∧ ExternalOnly s := by
  by_cases hidle : s.tc.inflight = false
  · rw [inv_idle_iff hidle]
    simp [EngineMirrorsConfig, PinsDistinct, PinsAreOutputs, cfgValid, hcfg, hidle]
  · have hconf : ¬ InflightConfigured s := by simpa [InflightConfigured, cfgValid, hcfg] using hidle
    exact ⟨fun ⟨_, _, h, _⟩ => absurd h hconf, fun ⟨_, h, _⟩ => absurd h hidle⟩

/-! ### What comes from outside -/

/-- BUF is canonical. -/
theorem Inv.buf_wf (hI : Inv s) : Memory.wf s.buf = true := by
  obtain ⟨-, -, -, -, -, -, -, -, -, -, -, -, -, hbuf, -⟩ := hI
  exact hbuf

/-- The next turn is from outside, and so are those after it. -/
theorem Inv.external_of_agenda {u : Turn} {rest : List Turn} (hI : Inv s) (h : s.agenda = u :: rest) :
    u.external = true ∧ rest.all Turn.external = true := by
  obtain ⟨-, -, -, -, -, -, -, -, -, -, -, -, -, -, hext⟩ := hI
  simpa [ExternalOnly, h] using hext

/-- The turn taken from the agenda. -/
theorem Inv.with_agenda {rest : List Turn} (hI : Inv s) (hext : rest.all Turn.external = true) :
    Inv { s with agenda := rest } := by
  obtain ⟨h1, h2, h3, h4, h5, h6, h7, h8, h9, h10, h11, h12, h13, h14, -⟩ := hI
  exact ⟨h1, h2, h3, h4, h5, h6, h7, h8, h9, h10, h11, h12, h13, h14, hext⟩

/-- The host's writes to its buffer. -/
theorem Inv.with_buf {m : Memory} (hI : Inv s) (hm : Memory.wf m = true) : Inv { s with buf := m } := by
  obtain ⟨h1, h2, h3, h4, h5, h6, h7, h8, h9, h10, h11, h12, h13, -, h15⟩ := hI
  exact ⟨h1, h2, h3, h4, h5, h6, h7, h8, h9, h10, h11, h12, h13, hm, h15⟩

/-- A command word names a host command and nothing else (R101). -/
theorem opGroup_of_decode_cmd {w : BitVec 32} {i : Instr} (h : decode (.cmd w) = .ok i) : opGroup i = .hostCommand := by
  simp only [decode, decodeCmd] at h
  split at h
  · split at h <;> cases h; rfl
  · cases h; rfl
  · split at h <;> cases h; rfl
  · cases h

/-- An event in the trace changes no invariant. -/
theorem Inv.respond {cmd : Command} {e : Code} (hI : Inv s) : Inv (respond cmd e s) := hI

/-- An accepted TRANSMIT keeps the invariants: PS holds the encoding, the worker stands at W_ENABLE. -/
theorem inv_accept {c : PinConfig} {n : Nat} (hI : Inv s) (hcfg : s.cfg = some c) (hidle : s.tc.inflight = false)
    (hfits : payloadFits n = true) : Inv (accept c n s) := by
  obtain ⟨hmirror, hdist, hout, hen, hbusy, hrem, hps, hwave, hbuf, hext⟩ := (inv_idle_iff hidle).1 hI
  refine ⟨hmirror, hdist, fun _ => by simp [cfgValid, hcfg], by simp [BusyOnlyInWait, hbusy], hwave, rfl, hout, ?_, ?_,
    by simp [HoldsFrame, hwave], by simp [IndexInRange, hbusy], fun _ => hrem, fun _ => hfits, hbuf, hext⟩
  · simpa [EnFollowsWorker, enActive, accept] using hen
  · intro _
    rw [accept_cfg, hcfg]
    exact ⟨by simp [accept, encodeRecords_length], reservedRecord_encodeRecords⟩

/-- A host command that answers a next state keeps the invariants. -/
theorem exec_hostCommand_inv {i : Instr} (hI : Inv s) (hgroup : opGroup i = .hostCommand) (h : exec i s = .next t) :
    Inv t := by
  cases exec_effect h with
  | initConfigured a b x y hcfg => exact hI
  | initNoEngine a b x y hcfg hdown =>
    refine (inv_unconfigured_iff (by simpa using hcfg)).2 ?_
    simpa [ExternalOnly] using (inv_unconfigured_iff hcfg).1 hI
  | initRolledBack a b x y e env hcfg hdown herr =>
    obtain ⟨-, hidle, -, hrem, hps, -, hbuf, hext⟩ := (inv_unconfigured_iff hcfg).1 hI
    exact (inv_unconfigured_iff (by simpa using hcfg)).2 ⟨rfl, hidle, rfl, hrem, hps, rfl, hbuf, hext⟩
  | initRolledBackTx tx b x y e env hcfg hdown herr =>
    obtain ⟨-, hidle, -, hrem, hps, -, hbuf, hext⟩ := (inv_unconfigured_iff hcfg).1 hI
    exact (inv_unconfigured_iff (by simpa using hcfg)).2 ⟨rfl, hidle, rfl, hrem, hps, rfl, hbuf, hext⟩
  | initDone tx en x y env hcfg hdown hne =>
    obtain ⟨-, hidle, -, hrem, hps, -, hbuf, hext⟩ := (inv_unconfigured_iff hcfg).1 hI
    refine (inv_idle_iff (by simpa using hidle)).2 ⟨rfl, ?_, ?_, ?_, rfl, hrem, hps, rfl, hbuf, hext⟩
    · rintro c ⟨⟩; exact hne
    · rintro c ⟨⟩; simp
    · rintro c ⟨⟩; simp
  | transmitRejected n e herr => exact hI
  | transmitAccepted n c hcfg hidle hfits => exact (inv_accept hI hcfg hidle hfits).respond
  | close hidle =>
    obtain ⟨-, -, -, -, hbusy, hrem, hps, hwave, hbuf, hext⟩ := (inv_idle_iff hidle).1 hI
    rw [engineTerm_eq]
    exact (inv_unconfigured_iff rfl).2
      ⟨rfl, hidle, by simp [hbusy], hrem, hps, by simp [hwave], hbuf, hext⟩
  | symbol i k r hsym => rw [hsym] at hgroup; cases hgroup
  | _ => cases hgroup

/-! ### The worker, the sequencer and time -/

/-- Time keeps the invariants: it changes no timer that is at 0. -/
theorem inv_elapse (n : Nat) (hI : Inv s) : Inv (elapse n s) := by
  obtain ⟨hmirror, hdist, hconf, hwait, hwave, hps, hout, hen, hfps, hfwave, hidx, hhold, hfit, hbuf, hext⟩ := hI
  exact ⟨hmirror, hdist, hconf, hwait, hwave, hps, hout, hen, hfps, hfwave, hidx,
    fun hb => by simp [hhold hb], hfit, hbuf, hext⟩

/-- The sequencer's step keeps the invariants: a record leaves EN alone and the index does not pass the end. -/
theorem seqStep_inv (hI : Inv s) (hen : seqEnabled s = true) (h : seqStep s = .next t) : Inv t := by
  obtain ⟨hmirror, hdist, hconf, hwait, hwave, hps, hout, hlevel, hfps, hfwave, hidx, hhold, hfit, hbuf, hext⟩ := hI
  obtain ⟨⟨hbusy, hrem⟩, -⟩ : (s.seq.busy = true ∧ s.seq.rem = 0) ∧ s.seq.idx ≤ s.wave.entry.length := by
    simpa [seqEnabled] using hen
  obtain ⟨hinfl, -⟩ := hwait hbusy
  obtain ⟨-, ⟨r, hr, hres, rfl⟩ | ⟨-, rfl⟩⟩ := seqStep_eq_next.1 h
  · refine ⟨hmirror, hdist, hconf, hwait, hwave, hps, ?_, ?_, hfps, hfwave, ?_, ?_, hfit, hbuf, hext⟩
    · simpa [PinsAreOutputs] using hout
    · intro c hc
      have hother := recordLevel_other (c := c) (r := r) (by rwa [← show s.cfg = some c from hc]) (hdist c hc).symm
      rw [lineLevel_applyRecord, hother]
      exact hlevel c hc
    · intro _
      exact (List.getElem?_eq_some_iff.1 hr).1
    · simp [NoHoldWhenIdle, hbusy]
  · exact ⟨hmirror, hdist, hconf, by simp [BusyOnlyInWait], hwave, hps, hout, hlevel, hfps, hfwave,
      by simp [IndexInRange], fun _ => hrem, hfit, hbuf, hext⟩

/-- The sequencer plays only while the worker waits (R45 c). -/
theorem Inv.not_busy (hI : Inv s) (hw : s.tc.wstep ≠ .wWait) : s.seq.busy = false := by
  obtain ⟨-, -, -, hwait, -⟩ := hI
  by_contra hb
  exact hw (hwait (by simpa using hb)).2.2

/-- W_ENABLE and W_DISABLE: EN driven to the level that is right at the worker's next step. -/
theorem inv_driveEn {c : PinConfig} {b : Bool} {w : WorkerStep} (hI : Inv s) (hcfg : s.cfg = some c)
    (hbusy : s.seq.busy = false) (hact : enActive (setWstep w s) = b) (hheld : waveHeld (setWstep w s) = waveHeld s)
    (hdone : (w != .wDone) = (s.tc.wstep != .wDone)) :
    Inv (setWstep w (drivePin c.enPin (physicalEn b c.invertEn) s)) := by
  obtain ⟨hmirror, hdist, hconf, -, hwave, hps, hout, -, hfps, hfwave, hidx, hhold, hfit, hbuf, hext⟩ := hI
  refine ⟨hmirror, hdist, hconf, by simp [BusyOnlyInWait, hbusy], hwave.trans hheld.symm, ?_, ?_, ?_, hfps, hfwave,
    hidx, hhold, hfit, hbuf, hext⟩
  · simpa [PsValidUntilFreed, hdone] using hps
  · simpa [PinsAreOutputs] using hout
  · intro c' hc'
    obtain rfl : c = c' := Option.some.inj (hcfg.symm.trans hc')
    have hact' : enActive (setWstep w (drivePin c.enPin (physicalEn b c.invertEn) s)) = b := hact
    rw [hact', lineLevel_setWstep, lineLevel_drivePin, if_pos rfl]

/-- Each worker step keeps the invariants. -/
theorem workerStep_inv (hI : Inv s) (hinfl : s.tc.inflight = true) (h : workerStep s = .next t) : Inv t := by
  have hnotBusy := hI.not_busy
  obtain ⟨hmirror, hdist, hconf, hwait, hwave, hps, hout, hen, hfps, hfwave, hidx, hhold, hfit, hbuf, hext⟩ := id hI
  rcases workerStep_eq_next h with ⟨hw, c, hcfg, -, rfl⟩ | ⟨hw, hpsv, -, hb, rfl⟩ | ⟨hw, hwavev, -, rfl⟩ | ⟨hw, -, rfl⟩ |
    ⟨hw, hidle, rfl⟩ | ⟨hw, c, hcfg, -, rfl⟩ | ⟨hw, -, hb, rfl⟩ | ⟨hw, rfl⟩ | ⟨hw, rfl⟩
  -- W_ENABLE
  · exact inv_driveEn hI hcfg (hnotBusy (by simp [hw])) (by simp [enActive, hinfl]) (by simp [waveHeld, hw])
      (by rw [hw]; rfl)
  -- W_SUBMIT
  · exact ⟨hmirror, hdist, hconf, by simp [BusyOnlyInWait, hb], by simp [WaveValidWhenHeld, waveHeld, hinfl],
      by simp [PsValidUntilFreed, hinfl, hpsv], hout, by simpa [EnFollowsWorker, enActive, hw, hinfl] using hen, hfps,
      fun _ => hfps hpsv, by simp [IndexInRange, hb], hhold, hfit, hbuf, hext⟩
  -- W_START
  · exact ⟨hmirror, hdist, hconf, fun _ => ⟨hinfl, hwavev, rfl⟩, by simpa [WaveValidWhenHeld, waveHeld, hw] using hwave,
      hps.trans (by rw [hw]; rfl), hout, by simpa [EnFollowsWorker, enActive, hw] using hen, hfps, hfwave,
      fun _ => Nat.zero_le _, by simp [NoHoldWhenIdle], hfit, hbuf, hext⟩
  -- a look that finds the engine busy
  · exact hI
  -- W_WAIT
  · have hup : s.engUp = true := hmirror.trans (hconf hinfl)
    have hb : s.seq.busy = false := by simpa [isBusy, hup] using hidle
    exact ⟨hmirror, hdist, hconf, by simp [BusyOnlyInWait, hb], by simpa [WaveValidWhenHeld, waveHeld, hw] using hwave,
      hps.trans (by rw [hw]; rfl), hout, by simpa [EnFollowsWorker, enActive, hw] using hen, hfps, hfwave, hidx, hhold,
      hfit, hbuf, hext⟩
  -- W_DISABLE
  · exact inv_driveEn hI hcfg (hnotBusy (by simp [hw])) (by simp [enActive]) (by simp [waveHeld, hw]) (by rw [hw]; rfl)
  -- W_DELETE
  · exact ⟨hmirror, hdist, hconf, by simp [BusyOnlyInWait, hb], by simp [WaveValidWhenHeld, waveHeld],
      hps.trans (by rw [hw]; rfl), hout, by simpa [EnFollowsWorker, enActive, hw] using hen, hfps, by simp [HoldsFrame],
      hidx, hhold, hfit, hbuf, hext⟩
  -- W_FREE
  · exact ⟨hmirror, hdist, hconf, by simp [BusyOnlyInWait, hnotBusy, hw],
      by simpa [WaveValidWhenHeld, waveHeld, hw] using hwave, by simp [PsValidUntilFreed], hout,
      by simpa [EnFollowsWorker, enActive, hw] using hen, by simp [HoldsFrame], hfwave, hidx, hhold, hfit, hbuf, hext⟩
  -- W_DONE
  · have hb := hnotBusy (by simp [hw])
    refine (inv_idle_iff rfl).2 ⟨hmirror, hdist, hout, ?_, hb, hhold hb, ?_, ?_, hbuf, hext⟩
    · simpa [EnFollowsWorker, enActive, hw] using hen
    · simpa [PsValidUntilFreed, hw] using hps
    · simpa [WaveValidWhenHeld, waveHeld, hw] using hwave

/-! ### Every step -/

/-- The worker's turn is its step, or nothing. -/
theorem runWorker_eq_next :
    runWorker s = .next t ↔
      (workerEnabled s = true ∧ workerStep s = .next t) ∨ (workerEnabled s = false ∧ t = s) := by
  unfold runWorker
  cases workerEnabled s <;> simp [eq_comm]

/-- The sequencer's turn is its step, or nothing. -/
theorem runSequencer_eq_next :
    runSequencer s = .next t ↔ (seqEnabled s = true ∧ seqStep s = .next t) ∨ (seqEnabled s = false ∧ t = s) := by
  unfold runSequencer
  cases seqEnabled s <;> simp [eq_comm]

/-- The worker has a step only while a transmission is in flight. -/
theorem inflight_of_workerEnabled (h : workerEnabled s = true) : s.tc.inflight = true :=
  (Bool.and_eq_true_iff.1 h).1

/-- A turn from outside keeps the invariants. -/
theorem runTurn_inv {u : Turn} (hI : Inv s) (hext : u.external = true) (h : runTurn u s = .next t) : Inv t := by
  have hbuf := hI.buf_wf
  cases u with
  | host w bytes =>
    obtain ⟨i, hdec, hi⟩ := runRaw_eq_next.1 h
    exact exec_hostCommand_inv (hI.with_buf (Memory.wf_place bytes 0 hbuf)) (opGroup_of_decode_cmd hdec) hi
  | hostStore i b => cases h; exact hI.with_buf (Memory.wf_write i b hbuf)
  | worker =>
    obtain ⟨hen, hstep⟩ | ⟨-, rfl⟩ := runWorker_eq_next.1 h
    · exact workerStep_inv hI (inflight_of_workerEnabled hen) hstep
    · exact hI
  | sequencer =>
    obtain ⟨hen, hstep⟩ | ⟨-, rfl⟩ := runSequencer_eq_next.1 h
    · exact seqStep_inv hI hen hstep
    · exact hI
  | elapse n => cases h; exact inv_elapse n hI
  | internal raw => cases hext

/-- The block by itself keeps the invariants. -/
theorem blockStep_inv (hI : Inv s) (h : blockStep s = .next t) : Inv t := by
  obtain ⟨hen, hstep⟩ | ⟨-, hen, hstep⟩ | ⟨-, -, rfl⟩ := blockStep_eq_next.1 h
  · exact seqStep_inv hI hen hstep
  · exact workerStep_inv hI (inflight_of_workerEnabled hen) hstep
  · exact inv_elapse _ hI

/-- Settles O49: the block's own step, or the next turn taken from an agenda of turns from outside. -/
theorem stepKeepsInvariants : Obligations.StepKeepsInvariants := by
  intro s t hI h
  obtain ⟨-, hblock⟩ | ⟨u, rest, hagenda, hturn⟩ := step_eq_next.1 h
  · exact blockStep_inv hI hblock
  · obtain ⟨hu, hrest⟩ := hI.external_of_agenda hagenda
    exact runTurn_inv (hI.with_agenda hrest) hu hturn

/-! ### The state after reset (R47, R280, R281) -/

/-- Settles O48: with no configuration the invariants say that every flag is 0. -/
theorem resetMeetsInvariants : Obligations.ResetMeetsInvariants :=
  (inv_unconfigured_iff rfl).2 ⟨rfl, rfl, rfl, rfl, rfl, rfl, rfl, rfl⟩

/-- With neither agent enabled and no time to pass the block does nothing. -/
theorem step_reset : step State.reset = .next State.reset :=
  step_eq_next.2 (.inl ⟨rfl, blockStep_eq_next.2 (.inr (.inr ⟨rfl, rfl, rfl⟩))⟩)

/-- Settles O47: each part by evaluation of the reset state. -/
theorem resetState : Obligations.ResetState := ⟨rfl, rfl, rfl, step_reset, fun _ => rfl⟩

end Sys2Proof.Machine

/-! SUPPORT. The serialised form of a record (R62). -/

namespace Sys2Proof.Machine

@[simp] theorem fieldBytes_length (v : BitVec 32) : (fieldBytes v).length = 4 := rfl

/-- Byte `m` of a field holds its bits from `8·m` on. -/
theorem fieldBytes_getElem? (v : BitVec 32) (m : Fin 4) :
    (fieldBytes v)[m.val]? = some (BitVec.ofNat 8 (v.toNat / 2 ^ (8 * m.val))) := by
  rw [← Nat.shiftRight_eq_div_pow]
  match m with
  | 0 => rfl
  | 1 => rfl
  | 2 => rfl
  | 3 => rfl

/-- The four bytes of a field, the last one first, are the field. -/
theorem append_extractLsb'_bytes (v : BitVec 32) :
    v.extractLsb' 24 8 ++ v.extractLsb' 16 8 ++ v.extractLsb' 8 8 ++ v.extractLsb' 0 8 = v := by
  simp only [BitVec.extractLsb'_append_extractLsb'_eq_extractLsb', BitVec.extractLsb'_eq_self]

/-- A serialised record is read back. -/
theorem bytesPulse_pulseBytes (r : Pulse) : bytesPulse (pulseBytes r) = some r := by
  simp only [pulseBytes, fieldBytes, List.cons_append, List.nil_append, bytesPulse, append_extractLsb'_bytes]

/-- The twelve bytes by field: `set` at 0, `clr` at 4, `dur` at 8. -/
theorem pulseBytes_getElem? (r : Pulse) {m : Nat} (hm : m < 4) :
    (pulseBytes r)[m]? = (fieldBytes r.set)[m]? ∧ (pulseBytes r)[4 + m]? = (fieldBytes r.clr)[m]? ∧
      (pulseBytes r)[8 + m]? = (fieldBytes r.dur)[m]? := by
  refine ⟨?_, ?_, ?_⟩
  · rw [pulseBytes, List.append_assoc, List.getElem?_append_left (by simpa using hm)]
  · rw [pulseBytes, List.append_assoc, List.getElem?_append_right (by simp), List.getElem?_append_left (by simp; omega)]
    simp
  · rw [pulseBytes, List.getElem?_append_right (by simp)]
    simp

/-- Settles O8: the bytes of each field, and the record put together again from them. -/
theorem serialisedRecordIsLittleEndian : Obligations.SerialisedRecordIsLittleEndian := by
  intro r
  refine ⟨rfl, bytesPulse_pulseBytes r, fun m => ?_⟩
  obtain ⟨hset, hclr, hdur⟩ := pulseBytes_getElem? r m.isLt
  simp only [hset, hclr, hdur, fieldBytes_getElem?, and_self]

end Sys2Proof.Machine

/-! SUPPORT. What each group of operations leaves unchanged (R66, R100). -/

namespace Sys2Proof.Machine

variable {s t : State}

/-! ### What ENGINE_TERM, the writing of the configuration and the acceptance leave alone -/

@[simp] theorem engineTerm_wave_entry (s : State) : (engineTerm s).wave.entry = s.wave.entry := by simp [engineTerm_eq]
@[simp] theorem engineTerm_seq_idx (s : State) : (engineTerm s).seq.idx = s.seq.idx := by simp [engineTerm_eq]
@[simp] theorem engineTerm_seq_rem (s : State) : (engineTerm s).seq.rem = s.seq.rem := by simp [engineTerm_eq]
@[simp] theorem engineTerm_buf (s : State) : (engineTerm s).buf = s.buf := by simp [engineTerm_eq]
@[simp] theorem engineTerm_callResult (s : State) : (engineTerm s).callResult = s.callResult := by simp [engineTerm_eq]
@[simp] theorem engineTerm_agenda (s : State) : (engineTerm s).agenda = s.agenda := by simp [engineTerm_eq]
@[simp] theorem engineTerm_trace (s : State) : (engineTerm s).trace = s.trace := by simp [engineTerm_eq]
@[simp] theorem engineTerm_now (s : State) : (engineTerm s).now = s.now := by simp [engineTerm_eq]

@[simp] theorem configure_wave (a b : Pin) (x y : Bool) (s : State) : (configure a b x y s).wave = s.wave := rfl
@[simp] theorem configure_seq (a b : Pin) (x y : Bool) (s : State) : (configure a b x y s).seq = s.seq := rfl
@[simp] theorem configure_buf (a b : Pin) (x y : Bool) (s : State) : (configure a b x y s).buf = s.buf := rfl
@[simp] theorem configure_callResult (a b : Pin) (x y : Bool) (s : State) :
    (configure a b x y s).callResult = s.callResult := rfl
@[simp] theorem configure_agenda (a b : Pin) (x y : Bool) (s : State) : (configure a b x y s).agenda = s.agenda := rfl
@[simp] theorem configure_trace (a b : Pin) (x y : Bool) (s : State) :
    (configure a b x y s).trace = s.trace ++ [.pin b (physicalEn false y)] := rfl
@[simp] theorem configure_now (a b : Pin) (x y : Bool) (s : State) : (configure a b x y s).now = s.now := rfl

@[simp] theorem accept_buf (c : PinConfig) (n : Nat) (s : State) : (accept c n s).buf = s.buf := rfl
@[simp] theorem accept_callResult (c : PinConfig) (n : Nat) (s : State) : (accept c n s).callResult = s.callResult := rfl
@[simp] theorem accept_agenda (c : PinConfig) (n : Nat) (s : State) : (accept c n s).agenda = s.agenda := rfl
@[simp] theorem accept_trace (c : PinConfig) (n : Nat) (s : State) : (accept c n s).trace = s.trace := rfl
@[simp] theorem accept_now (c : PinConfig) (n : Nat) (s : State) : (accept c n s).now = s.now := rfl

/-! ### The frame of each group (R66, R100) -/

variable {i : Instr}

/-- No operation writes BUF, the agenda or the time. -/
theorem exec_buf_agenda_now (h : exec i s = .next t) : t.buf = s.buf ∧ t.agenda = s.agenda ∧ t.now = s.now := by
  cases exec_effect h <;> simp

/-- No operation takes an event back. -/
theorem exec_trace_extends (h : exec i s = .next t) : ∃ es, t.trace = s.trace ++ es := by
  cases exec_effect h <;> simp

/-- A host command leaves the waveform's records, the sequencer's index and hold, and the last call's result. -/
theorem exec_hostCommand_frame (hgroup : opGroup i = .hostCommand) (h : exec i s = .next t) :
    t.wave.entry = s.wave.entry ∧ t.seq.idx = s.seq.idx ∧ t.seq.rem = s.seq.rem ∧ t.callResult = s.callResult := by
  cases exec_effect h with
  | symbol i k r hsym => rw [hsym] at hgroup; cases hgroup
  | _ => cases hgroup <;> simp

/-- An engine primitive leaves the configuration, PS, TC and the hold. -/
theorem exec_enginePrimitive_frame (hgroup : opGroup i = .enginePrimitive) (h : exec i s = .next t) :
    t.cfg = s.cfg ∧ t.ps = s.ps ∧ t.tc = s.tc ∧ t.seq.rem = s.seq.rem := by
  cases exec_effect h with
  | symbol i k r hsym => rw [hsym] at hgroup; cases hgroup
  | _ => cases hgroup <;> simp

/-- EN_ENABLE and EN_DISABLE write a level and the trace. -/
theorem exec_enableLine_frame (hgroup : opGroup i = .enableLine) (h : exec i s = .next t) :
    t = { s with gpio := t.gpio, trace := t.trace } ∧ ∀ p, lineMode t p = lineMode s p := by
  cases exec_effect h with
  | enEnable c => exact ⟨rfl, by simp⟩
  | enDisable c => exact ⟨rfl, by simp⟩
  | symbol i k r hsym => rw [hsym] at hgroup; cases hgroup
  | _ => cases hgroup

/-- A pulse form writes levels, the index, the hold and the trace. -/
theorem exec_pulseForm_frame (hgroup : opGroup i = .pulseForm) (h : exec i s = .next t) :
    t = { s with gpio := t.gpio, seq := t.seq, trace := t.trace } ∧ t.seq.busy = s.seq.busy ∧
      ∀ p, lineMode t p = lineMode s p := by
  cases exec_effect h with
  | pulseHi p d => exact ⟨rfl, rfl, by simp⟩
  | pulseLo p d => exact ⟨rfl, rfl, by simp⟩
  | symbol i k r hsym => rw [hsym] at hgroup; cases hgroup
  | _ => cases hgroup

/-- A symbol writes PS's records, and draws a free value only when there is no configuration to read. -/
theorem exec_symbol_frame (hgroup : opGroup i = .symbol) (h : exec i s = .next t) :
    t = { s with ps := { s.ps with entry := t.ps.entry }, env := t.env } ∧ (s.cfg ≠ none → t.env = s.env) := by
  cases exec_effect h with
  | symbol i k r =>
    refine ⟨by unfold afterReadConfig; split <;> rfl, fun hne => ?_⟩
    obtain ⟨c, hcfg⟩ := Option.ne_none_iff_exists'.1 hne
    rw [setPsRecord_env, afterReadConfig_of_cfg s hcfg]
  | _ => cases hgroup

/-- Settles O41: what every operation leaves, and the frame of each group. -/
theorem frameByGroup : Obligations.FrameByGroup := by
  intro i s t h
  obtain ⟨hbuf, hagenda, hnow⟩ := exec_buf_agenda_now h
  exact ⟨fun a => by rw [hbuf], hagenda, hnow, exec_trace_extends h, (exec_hostCommand_frame · h),
    (exec_enginePrimitive_frame · h), (exec_enableLine_frame · h), (exec_pulseForm_frame · h), (exec_symbol_frame · h)⟩

end Sys2Proof.Machine

/-! SUPPORT. The step runs the operation decoded (R75, R101, R104). -/

namespace Sys2Proof.Machine

variable {s t : State}

/-- A raw form that decodes runs as the operation it names. -/
theorem runRaw_of_decode {raw : Raw} {i : Instr} (hdec : decode raw = .ok i) : runRaw raw s = exec i s := by
  simp only [runRaw, hdec]

/-- With a turn listed the step is that turn's. -/
theorem step_of_agenda {u : Turn} {rest : List Turn} (h : s.agenda = u :: rest) :
    step s = runTurn u { s with agenda := rest } := by
  simp only [step, machineStep, h]

/-- Settles O43: the turn, then its operation. -/
theorem stepRunsDecodedOperation : Obligations.StepRunsDecodedOperation :=
  ⟨fun _ _ _ _ _ hagenda hdec => (step_of_agenda hagenda).trans (runRaw_of_decode hdec),
    fun _ _ _ _ hagenda hdec => (step_of_agenda hagenda).trans (runRaw_of_decode hdec)⟩

end Sys2Proof.Machine

/-! SUPPORT. Every step from a state with the invariants is one agent's move; what each move does to the hold of a
record, and which move emits a pulse (R73, R194, R297). -/

namespace Sys2Proof.Machine

variable {s t : State}

/-! ### The moves of the agents -/

/-- When the sequencer has a step: it plays, no hold is left, and its index is not past the end. -/
theorem seqEnabled_eq_true :
    seqEnabled s = true ↔ s.seq.busy = true ∧ s.seq.rem = 0 ∧ s.seq.idx ≤ s.wave.entry.length := by
  simp [seqEnabled, and_assoc]

/-- What an agent of the block's surroundings or the block itself can do at `s`, the writing of BUF apart. -/
inductive AgentMove (s : State) : State → Prop
  | hostCommand (i : Instr) (t : State) (hgroup : opGroup i = .hostCommand) (h : exec i s = .next t) : AgentMove s t
  | worker (t : State) (hen : workerEnabled s = true) (h : workerStep s = .next t) : AgentMove s t
  | sequencer (t : State) (hen : seqEnabled s = true) (h : seqStep s = .next t) : AgentMove s t
  | elapse (n : Nat) : AgentMove s (elapse n s)
  | rest : AgentMove s s

/-- A turn from outside is one agent's move, once the bytes it brings stand in BUF. -/
theorem runTurn_agentMove {u : Turn} (hI : Inv s) (hext : u.external = true) (h : runTurn u s = .next t) :
    ∃ m, Inv { s with buf := m } ∧ AgentMove { s with buf := m } t := by
  have hbuf := hI.buf_wf
  cases u with
  | host w bytes =>
    obtain ⟨i, hdec, hi⟩ := runRaw_eq_next.1 h
    exact ⟨_, hI.with_buf (Memory.wf_place bytes 0 hbuf), .hostCommand i t (opGroup_of_decode_cmd hdec) hi⟩
  | hostStore i b => cases h; exact ⟨_, hI.with_buf (Memory.wf_write i b hbuf), .rest⟩
  | worker =>
    obtain ⟨hen, hstep⟩ | ⟨-, rfl⟩ := runWorker_eq_next.1 h
    · exact ⟨s.buf, hI, .worker t hen hstep⟩
    · exact ⟨t.buf, hI, .rest⟩
  | sequencer =>
    obtain ⟨hen, hstep⟩ | ⟨-, rfl⟩ := runSequencer_eq_next.1 h
    · exact ⟨s.buf, hI, .sequencer t hen hstep⟩
    · exact ⟨t.buf, hI, .rest⟩
  | elapse n => cases h; exact ⟨s.buf, hI, .elapse n⟩
  | internal raw => cases hext

/-- The block by itself makes one agent's move. -/
theorem blockStep_agentMove (h : blockStep s = .next t) : AgentMove s t := by
  obtain ⟨hen, hstep⟩ | ⟨-, hen, hstep⟩ | ⟨-, -, rfl⟩ := blockStep_eq_next.1 h
  · exact .sequencer t hen hstep
  · exact .worker t hen hstep
  · exact .elapse _

/-- From a state with the invariants a step is one agent's move, from a state that differs in the agenda and BUF alone. -/
theorem Inv.step_agentMove (hI : Inv s) (h : step s = .next t) :
    ∃ rest m, Inv { s with agenda := rest, buf := m } ∧ AgentMove { s with agenda := rest, buf := m } t := by
  obtain ⟨-, hblock⟩ | ⟨u, rest, hagenda, hturn⟩ := step_eq_next.1 h
  · exact ⟨s.agenda, s.buf, hI, blockStep_agentMove hblock⟩
  · obtain ⟨hu, hrest⟩ := hI.external_of_agenda hagenda
    exact ⟨rest, runTurn_agentMove (hI.with_agenda hrest) hu hturn⟩

/-! ### The driver around a pulse (R73 a and d, R194) -/

/-- A host command ends with its response (R75). -/
theorem exec_hostCommand_responds {i : Instr} (hgroup : opGroup i = .hostCommand) (h : exec i s = .next t) :
    ∃ cmd code, t.trace.getLast? = some (.resp cmd code) := by
  cases exec_effect h with
  | symbol i k r hsym => rw [hsym] at hgroup; cases hgroup
  | _ => cases hgroup <;> simp

/-- Only a sequencer that plays, and goes on playing, emits a pulse, and it leaves the configuration. -/
theorem AgentMove.of_pulse {k : Nat} {a b : Mask} {d : Micros} (hmove : AgentMove s t)
    (htrace : t.trace = s.trace ++ [.pulse k a b d]) : s.seq.busy = true ∧ t.seq.busy = true ∧ t.cfg = s.cfg := by
  cases hmove with
  | hostCommand i _ hgroup h =>
    obtain ⟨cmd, code, hlast⟩ := exec_hostCommand_responds hgroup h
    simp [htrace] at hlast
  | worker _ hen h =>
    rcases workerStep_eq_next h with ⟨-, c, -, -, rfl⟩ | ⟨-, -, -, -, rfl⟩ | ⟨-, -, -, rfl⟩ | ⟨-, -, rfl⟩ |
      ⟨-, -, rfl⟩ | ⟨-, c, -, -, rfl⟩ | ⟨-, -, -, rfl⟩ | ⟨-, rfl⟩ | ⟨-, rfl⟩ <;> simp at htrace
  | sequencer _ hen h =>
    obtain ⟨hbusy, -⟩ := seqEnabled_eq_true.1 hen
    obtain ⟨-, ⟨r, -, -, rfl⟩ | ⟨-, rfl⟩⟩ := seqStep_eq_next.1 h
    · exact ⟨hbusy, hbusy, rfl⟩
    · simp at htrace
  | elapse n => simp at htrace
  | rest => simp at htrace

/-- While the sequencer plays the driver is on: the worker waits, between W_ENABLE and W_DISABLE. -/
theorem Inv.driver_on_of_busy (hI : Inv s) (hbusy : s.seq.busy = true) :
    ∃ c, s.cfg = some c ∧ lineLevel s c.enPin = !c.invertEn := by
  obtain ⟨-, -, hconf, hwait, -, -, -, hen, -⟩ := hI
  obtain ⟨hinfl, -, hw⟩ := hwait hbusy
  obtain ⟨c, hcfg⟩ := Option.isSome_iff_exists.1 (hconf hinfl)
  have hact : enActive s = true := by simp [enActive, hinfl, hw]
  exact ⟨c, hcfg, by simpa [hact] using hen c hcfg⟩

/-- Settles O54: the step that applies a record is the sequencer's, which plays before and after it. -/
theorem driverOnAroundEveryPulse : Obligations.DriverOnAroundEveryPulse := by
  intro s t k a b d hI h htrace
  obtain ⟨rest, m, -, hmove⟩ := hI.step_agentMove h
  obtain ⟨hs, ht, hcfg⟩ := hmove.of_pulse htrace
  obtain ⟨c, hc, hon⟩ := hI.driver_on_of_busy hs
  obtain ⟨c', hc', hon'⟩ := (stepKeepsInvariants s t hI h).driver_on_of_busy ht
  obtain rfl : c' = c := Option.some.inj (hc'.symm.trans (hcfg.trans hc))
  exact ⟨c', hc, hc', hon, hon'⟩

/-! ### The hold of a record (R73 b and c, R297) -/

/-- In flight a host command is only rejected (R212, R223). -/
theorem exec_hostCommand_inflight {i : Instr} (hcfg : s.cfg ≠ none) (hinfl : s.tc.inflight = true)
    (hgroup : opGroup i = .hostCommand) (h : exec i s = .next t) : ∃ cmd code, t = respond cmd code s := by
  cases exec_effect h with
  | initConfigured a b x y => exact ⟨_, _, rfl⟩
  | transmitRejected n e => exact ⟨_, _, rfl⟩
  | initNoEngine | initRolledBack | initRolledBackTx | initDone => contradiction
  | transmitAccepted _ _ _ hidle | close hidle => simp [hinfl] at hidle
  | symbol i k r hsym => rw [hsym] at hgroup; cases hgroup
  | _ => cases hgroup

/-- The worker leaves the time, and touches the sequencer only at W_START. -/
theorem workerStep_seq_now (h : workerStep s = .next t) (hw : s.tc.wstep ≠ .wStart) :
    t.seq = s.seq ∧ t.now = s.now := by
  rcases workerStep_eq_next h with ⟨-, c, -, -, rfl⟩ | ⟨-, -, -, -, rfl⟩ | ⟨hstart, -, -, rfl⟩ | ⟨-, -, rfl⟩ |
    ⟨-, -, rfl⟩ | ⟨-, c, -, -, rfl⟩ | ⟨-, -, -, rfl⟩ | ⟨-, rfl⟩ | ⟨-, rfl⟩
  case inr.inr.inl => exact absurd hstart hw
  all_goals exact ⟨rfl, rfl⟩

/-- While a record is held time does not pass the end of its hold. -/
theorem elapse_hold {n : Nat} (hbusy : s.seq.busy = true) (hidx : s.seq.idx ≠ 0) :
    (elapse n s).now + (elapse n s).seq.rem = s.now + s.seq.rem := by
  have hle : elapsible n s ≤ s.seq.rem := by simp [elapsible, hbusy, hidx]
  simp only [elapse_now, elapse_seq]
  omega

/-- What an agent's move does to a hold that runs: nothing to its end, or the sequencer's step at its end. -/
theorem AgentMove.hold (hmove : AgentMove s t) (hI : Inv s) (hbusy : s.seq.busy = true) (hidx : s.seq.idx ≠ 0) :
    (t.seq.busy = true ∧ t.seq.idx = s.seq.idx ∧ t.now + t.seq.rem = s.now + s.seq.rem) ∨
    (s.seq.rem = 0 ∧ t.now = s.now ∧ t.seq.busy = true ∧ t.seq.idx = s.seq.idx + 1 ∧
      ∃ r, s.wave.entry[s.seq.idx]? = some r ∧ t.seq.rem = r.dur.toNat) ∨
    (s.seq.rem = 0 ∧ t.now = s.now ∧ t.seq.busy = false ∧ s.seq.idx = s.wave.entry.length) := by
  obtain ⟨-, -, hconf, hwait, -, -, -, -, -, -, hrange, -⟩ := hI
  obtain ⟨hinfl, -, hw⟩ := hwait hbusy
  cases hmove with
  | hostCommand i _ hgroup h =>
    obtain ⟨cmd, code, rfl⟩ := exec_hostCommand_inflight (Option.isSome_iff_ne_none.1 (hconf hinfl)) hinfl hgroup h
    exact .inl ⟨hbusy, rfl, rfl⟩
  | worker _ hen h =>
    obtain ⟨hseq, hnow⟩ := workerStep_seq_now h (by simp [hw])
    exact .inl ⟨by rw [hseq, hbusy], by rw [hseq], by rw [hseq, hnow]⟩
  | sequencer _ hen h =>
    obtain ⟨-, hrem, -⟩ := seqEnabled_eq_true.1 hen
    obtain ⟨-, ⟨r, hr, -, rfl⟩ | ⟨hnone, rfl⟩⟩ := seqStep_eq_next.1 h
    · exact .inr (.inl ⟨hrem, rfl, hbusy, rfl, r, hr, rfl⟩)
    · exact .inr (.inr ⟨hrem, rfl, rfl, (hrange hbusy).antisymm (List.getElem?_eq_none_iff.1 hnone)⟩)
  | elapse n => exact .inl ⟨hbusy, rfl, elapse_hold hbusy hidx⟩
  | rest => exact .inl ⟨hbusy, rfl, rfl⟩

/-- Settles O55: a step is one agent's move. -/
theorem recordHeldExactlyItsDuration : Obligations.RecordHeldExactlyItsDuration := by
  intro s t hI hbusy hidx h
  obtain ⟨rest, m, hI', hmove⟩ := hI.step_agentMove h
  exact hmove.hold hI' hbusy hidx

end Sys2Proof.Machine

/-! SUPPORT. In flight no step reads BUF (R69): a step from a state with another BUF is the same step but for BUF. -/

namespace Sys2Proof.Machine

variable {s t : State}

/-! ### The state with another BUF -/

/-- `s` with another BUF. -/
def setBuf (m : Memory) (s : State) : State := { s with buf := m }

section
variable (m : Memory) (s : State)

@[simp] theorem setBuf_cfg : (setBuf m s).cfg = s.cfg := rfl
@[simp] theorem setBuf_engUp : (setBuf m s).engUp = s.engUp := rfl
@[simp] theorem setBuf_wave : (setBuf m s).wave = s.wave := rfl
@[simp] theorem setBuf_tc : (setBuf m s).tc = s.tc := rfl
@[simp] theorem setBuf_env : (setBuf m s).env = s.env := rfl
@[simp] theorem setBuf_agenda : (setBuf m s).agenda = s.agenda := rfl
@[simp] theorem cfgValid_setBuf : cfgValid (setBuf m s) = cfgValid s := rfl
@[simp] theorem engineAnswer_setBuf : engineAnswer (setBuf m s) = engineAnswer s := rfl
@[simp] theorem pinModeAnswer_setBuf : pinModeAnswer (setBuf m s) = pinModeAnswer s := rfl
@[simp] theorem isBusy_setBuf : isBusy (setBuf m s) = isBusy s := rfl
@[simp] theorem fetchRecord_setBuf : fetchRecord (setBuf m s) = fetchRecord s := rfl
@[simp] theorem seqEnabled_setBuf : seqEnabled (setBuf m s) = seqEnabled s := rfl
@[simp] theorem workerEnabled_setBuf : workerEnabled (setBuf m s) = workerEnabled s := rfl

end

/-- Going on from a choice of outcomes. -/
theorem andThen_ite {p : Prop} [Decidable p] (o o' : Outcome) (f : State → State) :
    andThen (if p then o else o') f = if p then andThen o f else andThen o' f := by
  split <;> rfl

variable (m : Memory)

/-- Going on with an update that does not touch BUF, from an outcome that is the same but for BUF. -/
theorem andThen_setBuf {o o' : Outcome} {f f' : State → State} (ho : o' = andThen o (setBuf m))
    (hf : ∀ u, f' (setBuf m u) = setBuf m (f u)) : andThen o' f' = andThen (andThen o f) (setBuf m) := by
  subst ho
  cases o with
  | next u => exact congrArg Host.Outcome.next (hf u)
  | fault r => rfl
  | refused r => rfl

/-! ### No primitive reads or writes BUF -/

theorem writePin_setBuf (p : Int) (b : Bool) : writePin p b (setBuf m s) = andThen (writePin p b s) (setBuf m) := by
  unfold writePin
  cases pinOf p with
  | none => rfl
  | some q => rw [andThen_ite]; rfl

theorem writeEn_setBuf (b : Bool) : writeEn b (setBuf m s) = andThen (writeEn b s) (setBuf m) := by
  unfold writeEn
  rw [setBuf_cfg]
  cases s.cfg with
  | none => rfl
  | some c => exact writePin_setBuf m _ _

theorem submitWave_setBuf : submitWave (setBuf m s) = andThen (submitWave s) (setBuf m) := by
  unfold submitWave; rw [andThen_ite]; rfl

theorem startPlayback_setBuf : startPlayback (setBuf m s) = andThen (startPlayback s) (setBuf m) := by
  unfold startPlayback; rw [andThen_ite]; rfl

theorem deleteWave_setBuf : deleteWave (setBuf m s) = andThen (deleteWave s) (setBuf m) := by
  unfold deleteWave; rw [andThen_ite]; rfl

theorem playRecord_setBuf (r : Pulse) : playRecord r (setBuf m s) = andThen (playRecord r s) (setBuf m) := by
  unfold playRecord; rw [andThen_ite]; rfl

theorem afterReadConfig_setBuf : afterReadConfig (setBuf m s) = setBuf m (afterReadConfig s) := by
  unfold afterReadConfig
  rw [setBuf_cfg]
  cases s.cfg <;> rfl

theorem putSymbol_setBuf (k n : Nat) (l : Logical) :
    putSymbol k l n (setBuf m s) = andThen (putSymbol k l n s) (setBuf m) := by
  unfold putSymbol
  rw [afterReadConfig_setBuf]
  rfl

theorem engineTerm_setBuf : engineTerm (setBuf m s) = setBuf m (engineTerm s) := by
  simp only [engineTerm_eq]; rfl

theorem takeEngineAnswer_setBuf : takeEngineAnswer (setBuf m s) = setBuf m (takeEngineAnswer s) := by
  unfold takeEngineAnswer
  rw [setBuf_env]
  cases s.env.engineInitOk <;> rfl

theorem engineInit_setBuf : engineInit (setBuf m s) = (engineInit s).map (Prod.map id (setBuf m)) := by
  unfold engineInit
  rw [setBuf_engUp, engineAnswer_setBuf, takeEngineAnswer_setBuf]
  cases s.engUp <;> cases engineAnswer s <;> rfl

theorem setPinMode_setBuf (p : Int) : setPinMode p (setBuf m s) = Prod.map id (setBuf m) (setPinMode p s) := by
  unfold setPinMode
  rw [pinModeAnswer_setBuf]
  cases pinOf p <;> cases pinModeAnswer s <;> rfl

/-! ### In flight no operation reads BUF (R69) -/

theorem initPin_setBuf (p : Int) : initPin p (setBuf m s) = Prod.map id (setBuf m) (initPin p s) := by
  unfold initPin
  rw [setPinMode_setBuf]
  rcases setPinMode p s with ⟨_ | _, s'⟩
  · simp [engineTerm_setBuf]
  · rfl

theorem initPins_setBuf (a b : Int) (x y : Bool) :
    initPins a b x y (setBuf m s) = Prod.map id (setBuf m) (initPins a b x y s) := by
  unfold initPins
  rw [engineTerm_setBuf, initPin_setBuf]
  split
  · rfl
  rcases initPin a s with ⟨_ | tx, s1⟩
  · rfl
  simp only [Prod.map, id, initPin_setBuf]
  rcases initPin b s1 with ⟨_ | en, s2⟩ <;> rfl

theorem initResult_setBuf (a b : Int) (x y : Bool) :
    initResult a b x y (setBuf m s) = (initResult a b x y s).map (Prod.map id (setBuf m)) := by
  unfold initResult
  rw [cfgValid_setBuf, engineInit_setBuf]
  cases cfgValid s
  · rcases engineInit s with _ | ⟨_ | _, s'⟩
    · rfl
    · rfl
    · simp [Except.map, initPins_setBuf]
  · rfl

theorem execInit_setBuf (a b : Int) (x y : Bool) :
    execInit a b x y (setBuf m s) = andThen (execInit a b x y s) (setBuf m) := by
  unfold execInit
  rw [initResult_setBuf]
  cases initResult a b x y s <;> rfl

/-- TRANSMIT in flight is rejected (R212). -/
theorem execTransmit_setBuf (hinfl : s.tc.inflight = true) (n : Nat) :
    execTransmit n (setBuf m s) = andThen (execTransmit n s) (setBuf m) := by
  unfold execTransmit
  rw [setBuf_cfg, setBuf_tc, hinfl]
  cases s.cfg <;> rfl

/-- CLOSE in flight is a fault (R233). -/
theorem execClose_setBuf (hinfl : s.tc.inflight = true) :
    execClose (setBuf m s) = andThen (execClose s) (setBuf m) := by
  unfold execClose
  rw [setBuf_tc, hinfl]
  rfl

theorem execEngineInit_setBuf : execEngineInit (setBuf m s) = andThen (execEngineInit s) (setBuf m) := by
  unfold execEngineInit
  rw [engineInit_setBuf]
  cases engineInit s <;> rfl

theorem execSetPinMode_setBuf (p : Int) : execSetPinMode p (setBuf m s) = andThen (execSetPinMode p s) (setBuf m) := by
  unfold execSetPinMode
  rw [setPinMode_setBuf, andThen_ite]
  rfl

/-- In flight an operation does the same with another BUF. -/
theorem exec_setBuf (hinfl : s.tc.inflight = true) (i : Instr) :
    exec i (setBuf m s) = andThen (exec i s) (setBuf m) := by
  cases i with
  | init a b x y => exact execInit_setBuf m a b x y
  | transmit n => exact execTransmit_setBuf m hinfl n
  | close => exact execClose_setBuf m hinfl
  | engineInit => exact execEngineInit_setBuf m
  | engineTerm => exact congrArg Host.Outcome.next (engineTerm_setBuf m)
  | setPinMode p => exact execSetPinMode_setBuf m p
  | writePin p b => exact andThen_setBuf m (writePin_setBuf m p b) fun _ => rfl
  | submitWave => exact andThen_setBuf m (submitWave_setBuf m) fun _ => rfl
  | startPlayback => exact startPlayback_setBuf m
  | isBusy => rfl
  | deleteWave => exact deleteWave_setBuf m
  | enEnable => exact writeEn_setBuf m true
  | enDisable => exact writeEn_setBuf m false
  | pulseHi a d => exact playRecord_setBuf m _
  | pulseLo a d => exact playRecord_setBuf m _
  | symStop i => cases i <;> exact putSymbol_setBuf m _ _ _
  | _ => exact putSymbol_setBuf m _ _ _

/-! ### In flight no step reads BUF (R69) -/

theorem seqStep_setBuf (hinfl : s.tc.inflight = true) : seqStep (setBuf m s) = andThen (seqStep s) (setBuf m) := by
  unfold seqStep
  rw [fetchRecord_setBuf, setBuf_wave]
  cases fetchRecord s with
  | none => rw [andThen_ite]; rfl
  | some r =>
    simp only [runRecord]
    cases decodeRecord r with
    | ok i => exact exec_setBuf m hinfl i
    | error => rfl

theorem workerStep_setBuf : workerStep (setBuf m s) = andThen (workerStep s) (setBuf m) := by
  unfold workerStep
  rw [setBuf_tc]
  cases s.tc.wstep with
  | wEnable => exact andThen_setBuf m (writeEn_setBuf m true) fun _ => rfl
  | wSubmit => exact andThen_setBuf m (submitWave_setBuf m) fun _ => rfl
  | wStart => exact andThen_setBuf m (startPlayback_setBuf m) fun _ => rfl
  | wWait => simp only [workWait, isBusy_setBuf, andThen_ite]; rfl
  | wDisable => exact andThen_setBuf m (writeEn_setBuf m false) fun _ => rfl
  | wDelete => exact andThen_setBuf m (deleteWave_setBuf m) fun _ => rfl
  | wFree => rfl
  | wDone => rfl

theorem blockStep_setBuf (hinfl : s.tc.inflight = true) :
    blockStep (setBuf m s) = andThen (blockStep s) (setBuf m) := by
  unfold blockStep
  rw [seqEnabled_setBuf, workerEnabled_setBuf, seqStep_setBuf m hinfl, workerStep_setBuf, andThen_ite, andThen_ite]
  rfl

theorem runRaw_setBuf (hinfl : s.tc.inflight = true) (raw : Raw) :
    runRaw raw (setBuf m s) = andThen (runRaw raw s) (setBuf m) := by
  unfold runRaw
  cases decode raw with
  | ok i => exact exec_setBuf m hinfl i
  | error => rfl

/-- In flight a turn does the same with another BUF, which the host may write in the turn. -/
theorem runTurn_setBuf (hinfl : s.tc.inflight = true) (u : Turn) :
    ∃ m', runTurn u (setBuf m s) = andThen (runTurn u s) (setBuf m') := by
  cases u with
  | host w bytes =>
    exact ⟨_, runRaw_setBuf (s := setBuf (Memory.place s.buf 0 bytes) s) (Memory.place m 0 bytes) hinfl _⟩
  | hostStore i b => exact ⟨Memory.write m i b, rfl⟩
  | worker => exact ⟨m, by simp only [runTurn, runWorker, workerEnabled_setBuf, workerStep_setBuf, andThen_ite]; rfl⟩
  | sequencer =>
    exact ⟨m, by simp only [runTurn, runSequencer, seqEnabled_setBuf, seqStep_setBuf m hinfl, andThen_ite]; rfl⟩
  | elapse n => exact ⟨m, rfl⟩
  | internal raw => exact ⟨m, runRaw_setBuf m hinfl raw⟩

theorem step_setBuf (hinfl : s.tc.inflight = true) : ∃ m', step (setBuf m s) = andThen (step s) (setBuf m') := by
  cases hagenda : s.agenda with
  | nil => exact ⟨m, by simp only [step, machineStep, setBuf_agenda, hagenda, blockStep_setBuf m hinfl]⟩
  | cons u rest =>
    rw [step_of_agenda hagenda, step_of_agenda (s := setBuf m s) hagenda]
    exact runTurn_setBuf (s := { s with agenda := rest }) m hinfl u

/-- Settles O57: the step with another BUF. -/
theorem payloadNotReadAfterAcceptance : Obligations.PayloadNotReadAfterAcceptance := by
  intro s t m hinfl h
  obtain ⟨m', hstep⟩ := step_setBuf m hinfl
  exact ⟨m', hstep.trans (by rw [h]; rfl)⟩

end Sys2Proof.Machine

/-! SUPPORT. Format CMD (R101, R102, R105): the fields of a command word, the decoder by its op, and the words of INIT and
TRANSMIT taken apart and put together. -/

namespace Sys2Proof

variable {w : BitVec 32}

/-! ### Fields -/

/-- A field of a command word is the number in these bits. -/
theorem cmdField_eq_toNat (w : BitVec 32) (lo len : Nat) : cmdField w lo len = (w.extractLsb' lo len).toNat := by
  rw [cmdField, BitVec.extractLsb'_toNat, Nat.shiftRight_eq_div_pow]

/-- A field holds a number exactly when its bits are that number's. -/
theorem cmdField_eq_iff {lo len n : Nat} (hn : n < 2 ^ len) :
    cmdField w lo len = n ↔ w.extractLsb' lo len = BitVec.ofNat len n := by
  rw [cmdField_eq_toNat, ← BitVec.toNat_inj, BitVec.toNat_ofNat, Nat.mod_eq_of_lt hn]

/-- A field of one bit is that bit. -/
theorem cmdField_one_beq (w : BitVec 32) (k : Nat) : (cmdField w k 1 == 1) = w.getLsbD k := by
  rw [cmdField, BitVec.getLsbD, Nat.testBit_eq_decide_div_mod_eq, pow_one]
  rfl

theorem cmdField_lt (w : BitVec 32) (lo len : Nat) : cmdField w lo len < 2 ^ len := Nat.mod_lt _ (Nat.two_pow_pos len)

/-- The op field has four values. -/
theorem cmdField_op_cases (w : BitVec 32) :
    cmdField w 0 2 = 0 ∨ cmdField w 0 2 = 1 ∨ cmdField w 0 2 = 2 ∨ cmdField w 0 2 = 3 := by
  have := cmdField_lt w 0 2
  omega

/-! ### The decoder by its op -/

theorem decodeCmd_of_op_init (hop : cmdField w 0 2 = 0) :
    decodeCmd w =
      if cmdField w 20 12 = 0 then
        .ok (.init (cmdField w 2 8 : Nat) (cmdField w 10 8 : Nat) (cmdField w 18 1 == 1) (cmdField w 19 1 == 1))
      else .error .reservedCommand := by
  simp only [decodeCmd, hop]

theorem decodeCmd_of_op_transmit (hop : cmdField w 0 2 = 1) : decodeCmd w = .ok (.transmit (cmdField w 2 30)) := by
  simp only [decodeCmd, hop]

theorem decodeCmd_of_op_close (hop : cmdField w 0 2 = 2) :
    decodeCmd w = if cmdField w 2 30 = 0 then .ok .close else .error .reservedCommand := by
  simp only [decodeCmd, hop]

theorem decodeCmd_of_op_reserved (hop : cmdField w 0 2 = 3) : decodeCmd w = .error .reservedCommand := by
  simp only [decodeCmd, hop]

/-- A command word is reserved exactly when its op is, or a field that must be zero is not (R105). -/
theorem decodeCmd_eq_error :
    decodeCmd w = .error .reservedCommand ↔
      cmdField w 0 2 = 3 ∨ (cmdField w 0 2 = 0 ∧ cmdField w 20 12 ≠ 0) ∨
        (cmdField w 0 2 = 2 ∧ cmdField w 2 30 ≠ 0) := by
  rcases cmdField_op_cases w with hop | hop | hop | hop
  · simp [decodeCmd_of_op_init hop, hop]
  · simp [decodeCmd_of_op_transmit hop, hop]
  · simp [decodeCmd_of_op_close hop, hop]
  · simp [decodeCmd_of_op_reserved hop, hop]

/-- What a command word that decodes stands for. -/
theorem decodeCmd_eq_ok {i : Instr} (h : decodeCmd w = .ok i) :
    (cmdField w 0 2 = 0 ∧ cmdField w 20 12 = 0 ∧
      i = .init (cmdField w 2 8 : Nat) (cmdField w 10 8 : Nat) (cmdField w 18 1 == 1) (cmdField w 19 1 == 1)) ∨
    (cmdField w 0 2 = 1 ∧ i = .transmit (cmdField w 2 30)) ∨
    (cmdField w 0 2 = 2 ∧ cmdField w 2 30 = 0 ∧ i = .close) := by
  rcases cmdField_op_cases w with hop | hop | hop | hop
  · rw [decodeCmd_of_op_init hop] at h
    split at h
    · next hz => cases h; exact .inl ⟨hop, hz, rfl⟩
    · cases h
  · rw [decodeCmd_of_op_transmit hop] at h
    cases h; exact .inr (.inl ⟨hop, rfl⟩)
  · rw [decodeCmd_of_op_close hop] at h
    split at h
    · next hz => cases h; exact .inr (.inr ⟨hop, hz, rfl⟩)
    · cases h
  · rw [decodeCmd_of_op_reserved hop] at h
    cases h

/-! ### The words taken apart -/

theorem bit_lt_two (b : Bool) : bit b < 2 := by cases b <;> decide

@[simp] theorem bit_beq_one (b : Bool) : (bit b == 1) = b := by cases b <;> rfl

/-- A one-bit number is the bit of its being 1. -/
theorem bit_beq {n : Nat} (hn : n < 2) : bit (n == 1) = n := by
  match n with
  | 0 => rfl
  | 1 => rfl

theorem pinEncodable_iff {p : Int} : pinEncodable p = true ↔ ∃ n : Nat, n < 2 ^ 8 ∧ p = n := by
  simp only [pinEncodable, Bool.and_eq_true, decide_eq_true_eq]
  constructor
  · rintro ⟨hlo, hhi⟩
    exact ⟨p.toNat, by omega, by omega⟩
  · rintro ⟨n, hn, rfl⟩
    omega

/-- INIT's word is the sum of its fields at their places; nothing wraps. -/
theorem encodeInit_toNat {a b : Nat} (x y : Bool) (ha : a < 2 ^ 8) (hb : b < 2 ^ 8) :
    (encodeInit a b x y).toNat = a * 2 ^ 2 + b * 2 ^ 10 + bit x * 2 ^ 18 + bit y * 2 ^ 19 := by
  have hx := bit_lt_two x
  have hy := bit_lt_two y
  simp only [encodeInit, BitVec.toNat_ofNat, Int.toNat_natCast]
  omega

theorem encodeTransmit_toNat {n : Nat} (hn : n < 2 ^ 30) : (encodeTransmit n).toNat = n * 2 ^ 2 + 1 := by
  simp only [encodeTransmit, BitVec.toNat_ofNat]
  omega

/-- INIT's fields read back from its word. -/
theorem decodeCmd_encodeInit {a b : Nat} (x y : Bool) (ha : a < 2 ^ 8) (hb : b < 2 ^ 8) :
    decodeCmd (encodeInit a b x y) = .ok (.init a b x y) := by
  have hx := bit_lt_two x
  have hy := bit_lt_two y
  have hfields : cmdField (encodeInit a b x y) 0 2 = 0 ∧ cmdField (encodeInit a b x y) 2 8 = a ∧
      cmdField (encodeInit a b x y) 10 8 = b ∧ cmdField (encodeInit a b x y) 18 1 = bit x ∧
      cmdField (encodeInit a b x y) 19 1 = bit y ∧ cmdField (encodeInit a b x y) 20 12 = 0 := by
    simp only [cmdField, encodeInit_toNat x y ha hb]
    omega
  obtain ⟨hop, htx, hen, hinvTx, hinvEn, hzero⟩ := hfields
  rw [decodeCmd_of_op_init hop, if_pos hzero, htx, hen, hinvTx, hinvEn, bit_beq_one, bit_beq_one]

theorem decodeCmd_encodeTransmit {n : Nat} (hn : n < 2 ^ 30) : decodeCmd (encodeTransmit n) = .ok (.transmit n) := by
  have hfields : cmdField (encodeTransmit n) 0 2 = 1 ∧ cmdField (encodeTransmit n) 2 30 = n := by
    simp only [cmdField, encodeTransmit_toNat hn]
    omega
  rw [decodeCmd_of_op_transmit hfields.1, hfields.2]

/-! ### The words put together -/

theorem encodeInit_cmdField (hop : cmdField w 0 2 = 0) (hzero : cmdField w 20 12 = 0) :
    encodeInit (cmdField w 2 8 : Nat) (cmdField w 10 8 : Nat) (cmdField w 18 1 == 1) (cmdField w 19 1 == 1) = w := by
  apply BitVec.eq_of_toNat_eq
  rw [encodeInit_toNat _ _ (cmdField_lt w 2 8) (cmdField_lt w 10 8), bit_beq (cmdField_lt w 18 1),
    bit_beq (cmdField_lt w 19 1)]
  have := w.isLt
  simp only [cmdField] at hop hzero ⊢
  omega

theorem encodeTransmit_cmdField (hop : cmdField w 0 2 = 1) : encodeTransmit (cmdField w 2 30) = w := by
  apply BitVec.eq_of_toNat_eq
  rw [encodeTransmit_toNat (cmdField_lt w 2 30)]
  have := w.isLt
  simp only [cmdField] at hop ⊢
  omega

theorem closeWord_of_cmdField (hop : cmdField w 0 2 = 2) (hzero : cmdField w 2 30 = 0) : 0x00000002#32 = w := by
  apply BitVec.eq_of_toNat_eq
  have := w.isLt
  simp only [cmdField] at hop hzero
  simp only [BitVec.toNat_ofNat]
  omega

/-- A command word that decodes is the word of the operation it names, which is well formed. -/
theorem encode_of_decodeCmd {i : Instr} (h : decodeCmd w = .ok i) : i.wellFormed = true ∧ encode i = .cmd w := by
  obtain ⟨hop, hzero, rfl⟩ | ⟨hop, rfl⟩ | ⟨hop, hzero, rfl⟩ := decodeCmd_eq_ok h
  · have hpin (lo : Nat) : pinEncodable (cmdField w lo 8 : Nat) = true :=
      pinEncodable_iff.2 ⟨_, cmdField_lt w lo 8, rfl⟩
    exact ⟨by simp only [Instr.wellFormed, hpin, Bool.and_self],
      congrArg Raw.cmd (encodeInit_cmdField hop hzero)⟩
  · exact ⟨decide_eq_true (cmdField_lt w 2 30), congrArg Raw.cmd (encodeTransmit_cmdField hop)⟩
  · exact ⟨rfl, congrArg Raw.cmd (closeWord_of_cmdField hop hzero)⟩

end Sys2Proof

/-! SUPPORT. The rest of the decoder's map: the selectors of format CALL (R104), the forms of a record (R90, R91, R106), and
the symbols by their index (R95, R96). -/

namespace Sys2Proof

open Sys2Proof.Machine

/-! ### Calls -/

/-- A call that decodes is the encoding of the call it names, up to the operands that call does not take. -/
theorem encode_of_decodeCall {sel : BitVec 4} {pin : Int} {level : Bool} {i : Instr}
    (h : decodeCall sel pin level = .ok i) :
    ∃ pin' level', encode i = .call sel pin' level' ∧
      ((∃ p, i = .setPinMode p) → pin' = pin) ∧ ((∃ p b, i = .writePin p b) → pin' = pin ∧ level' = level) := by
  have hsel {n : Nat} (hn : sel.toNat = n) : BitVec.ofNat 4 n = sel := by
    rw [← hn, BitVec.ofNat_toNat, BitVec.setWidth_eq]
  unfold decodeCall at h
  split at h <;> cases h
  case h_3 hn => exact ⟨pin, false, by rw [← hsel hn]; rfl, by simp⟩
  case h_4 hn => exact ⟨pin, level, by rw [← hsel hn]; rfl, by simp⟩
  all_goals
    next hn => exact ⟨0, false, by rw [← hsel hn]; rfl, by simp⟩

/-! ### Records -/

/-- The three fields of a record's word are the record. -/
@[simp] theorem wordPulse_pulseWord (r : Pulse) : wordPulse (pulseWord r) = r :=
  have hset : (r.set ++ r.clr ++ r.dur).extractLsb' 64 32 = r.set := by
    rw [BitVec.extractLsb'_append_eq_of_le (by decide)]
    exact BitVec.extractLsb'_append_eq_left
  have hclr : (r.set ++ r.clr ++ r.dur).extractLsb' 32 32 = r.clr := by
    rw [BitVec.extractLsb'_append_eq_of_le (by decide)]
    exact BitVec.extractLsb'_append_eq_right
  have hdur : (r.set ++ r.clr ++ r.dur).extractLsb' 0 32 = r.dur := BitVec.extractLsb'_append_eq_right
  congr (congr (congrArg Pulse.mk hset) hclr) hdur

/-- A word is put together again from its three fields. -/
@[simp] theorem pulseWord_wordPulse (w : BitVec 96) : pulseWord (wordPulse w) = w := by
  simp only [wordPulse, pulseWord, BitVec.extractLsb'_append_extractLsb'_eq_extractLsb', BitVec.extractLsb'_eq_self]

theorem ne_zero_of_oneLine {m : Mask} (h : oneLine m = true) : m ≠ 0#32 := by
  obtain ⟨p, rfl⟩ := oneLine_iff.1 h
  exact pinMask_ne_zero p

/-- A record that decodes has a duration and one of the two forms, which it is decoded to (R91). -/
theorem decodeRecord_eq_ok {r : Pulse} {i : Instr} :
    decodeRecord r = .ok i ↔
      r.dur ≠ 0#32 ∧
        ((r.clr = 0#32 ∧ oneLine r.set = true ∧ i = .pulseHi r.set r.dur) ∨
         (r.set = 0#32 ∧ oneLine r.clr = true ∧ i = .pulseLo r.clr r.dur)) := by
  constructor
  · intro h
    unfold decodeRecord at h
    split at h
    · cases h
    next hdur =>
    split at h
    · next hform => cases h; exact ⟨hdur, .inl ⟨hform.1, hform.2, rfl⟩⟩
    split at h
    · next hform => cases h; exact ⟨hdur, .inr ⟨hform.1, hform.2, rfl⟩⟩
    · cases h
  · rintro ⟨hdur, ⟨hclr, hline, rfl⟩ | ⟨hset, hline, rfl⟩⟩
    · exact (if_neg hdur).trans (if_pos ⟨hclr, hline⟩)
    · have hclr : ¬ (r.clr = 0#32 ∧ oneLine r.set = true) := fun h => ne_zero_of_oneLine hline h.1
      exact (if_neg hdur).trans ((if_neg hclr).trans (if_pos ⟨hset, hline⟩))

theorem decodeRecord_eq_pulseHi {r : Pulse} {m : Mask} {d : Micros} :
    decodeRecord r = .ok (.pulseHi m d) ↔ oneLine m = true ∧ d ≠ 0#32 ∧ r = { set := m, clr := 0#32, dur := d } := by
  rw [decodeRecord_eq_ok]
  constructor
  · rintro ⟨hdur, ⟨hclr, hline, h⟩ | ⟨-, -, h⟩⟩
    · cases h; exact ⟨hline, hdur, by rw [← hclr]⟩
    · cases h
  · rintro ⟨hline, hdur, rfl⟩
    exact ⟨hdur, .inl ⟨rfl, hline, rfl⟩⟩

theorem decodeRecord_eq_pulseLo {r : Pulse} {m : Mask} {d : Micros} :
    decodeRecord r = .ok (.pulseLo m d) ↔ oneLine m = true ∧ d ≠ 0#32 ∧ r = { set := 0#32, clr := m, dur := d } := by
  rw [decodeRecord_eq_ok]
  constructor
  · rintro ⟨hdur, ⟨-, -, h⟩ | ⟨hset, hline, h⟩⟩
    · cases h
    · cases h; exact ⟨hline, hdur, by rw [← hset]⟩
  · rintro ⟨hline, hdur, rfl⟩
    exact ⟨hdur, .inr ⟨rfl, hline, rfl⟩⟩

/-- A record is reserved exactly when it has no duration or neither of the two forms (R106). -/
theorem decodeRecord_eq_error {r : Pulse} :
    decodeRecord r = .error .reservedPulse ↔
      r.dur = 0#32 ∨ (¬ (r.clr = 0#32 ∧ oneLine r.set = true) ∧ ¬ (r.set = 0#32 ∧ oneLine r.clr = true)) := by
  unfold decodeRecord
  split
  · next hdur => exact iff_of_true rfl (.inl hdur)
  next hdur =>
  split
  · next hform => exact iff_of_false nofun (by rintro (h | ⟨h, -⟩); exacts [hdur h, h hform])
  next hhi =>
  split
  · next hform => exact iff_of_false nofun (by rintro (h | ⟨-, h⟩); exacts [hdur h, h hform])
  next hlo => exact iff_of_true rfl (.inr ⟨hhi, hlo⟩)

/-- A record that decodes is the record of the operation it names, which is well formed. -/
theorem encode_of_decodeRecord {r : Pulse} {i : Instr} (h : decodeRecord r = .ok i) :
    i.wellFormed = true ∧ encode i = .pulse (pulseWord r) := by
  obtain ⟨hdur, ⟨hclr, hline, rfl⟩ | ⟨hset, hline, rfl⟩⟩ := decodeRecord_eq_ok.1 h
  · exact ⟨by simpa [Instr.wellFormed, hline] using hdur,
      congrArg (fun m => Raw.pulse (pulseWord { set := r.set, clr := m, dur := r.dur })) hclr.symm⟩
  · exact ⟨by simpa [Instr.wellFormed, hline] using hdur,
      congrArg (fun m => Raw.pulse (pulseWord { set := m, clr := r.clr, dur := r.dur })) hset.symm⟩

/-! ### Symbols -/

/-- The pulses of a frame by index: the four of the preamble and the start code, then the START, the eight data bits and the
STOP of each byte (R96). -/
theorem pulseIndex_cases (k : Nat) :
    k = 0 ∨ k = 1 ∨ k = 2 ∨ k = 3 ∨
      ∃ i, k = 4 + 10 * i ∨ (∃ j : Fin 8, k = 4 + 10 * i + 1 + j.val) ∨ k = 4 + 10 * i + 9 := by
  by_cases hk : k < 4
  · omega
  refine .inr (.inr (.inr (.inr ⟨(k - 4) / 10, ?_⟩)))
  by_cases hr : 1 ≤ (k - 4) % 10 ∧ (k - 4) % 10 ≤ 8
  · exact .inr (.inl ⟨⟨(k - 4) % 10 - 1, by omega⟩, by simp only; omega⟩)
  · omega

@[simp] theorem symbolAt_start (i : Nat) (b : Bool) :
    symbolAt (4 + 10 * i) b = (symbolPattern .space 1, .symStart i) := by
  have hrole : (4 + 10 * i - 4) % 10 = 0 ∧ (4 + 10 * i - 4) / 10 = i := by omega
  unfold symbolAt
  repeat rw [if_neg (by omega)]
  rw [if_pos hrole.1, hrole.2]
  rfl

@[simp] theorem symbolAt_data (i : Nat) (j : Fin 8) (b : Bool) :
    symbolAt (4 + 10 * i + 1 + j.val) b =
      if b then (symbolPattern .mark 1, .symData1 i j) else (symbolPattern .space 1, .symData0 i j) := by
  have hj := j.isLt
  have hbyte : (4 + 10 * i + 1 + j.val - 4) / 10 = i := by omega
  have hbit : (4 + 10 * i + 1 + j.val - 4) % 10 - 1 = j.val := by omega
  unfold symbolAt
  repeat rw [if_neg (by omega)]
  simp only [hbyte, hbit, hj, dite_true]
  rfl

@[simp] theorem symbolAt_stop (i : Nat) (b : Bool) :
    symbolAt (4 + 10 * i + 9) b = (symbolPattern .mark 2, .symStop (some i)) := by
  have hbyte : (4 + 10 * i + 9 - 4) / 10 = i := by omega
  unfold symbolAt
  repeat rw [if_neg (by omega)]
  rw [dif_neg (by omega), hbyte]
  rfl

/-- The role an index gives is encoded with that index and the pattern the index gives. -/
theorem encode_symbolAt (k : Nat) (b : Bool) : encode (symbolAt k b).2 = .symbol (symbolAt k b).1 k := by
  obtain rfl | rfl | rfl | rfl | ⟨i, rfl | ⟨j, rfl⟩ | rfl⟩ := pulseIndex_cases k
  · rfl
  · rfl
  · rfl
  · rfl
  · rw [symbolAt_start]; rfl
  · rw [symbolAt_data]; cases b <;> rfl
  · rw [symbolAt_stop]; rfl

/-- A pattern and index that decode are the encoding of their symbol. -/
theorem encode_of_decodeSymbol {pattern : BitVec 6} {k : Nat} {i : Instr} (h : decodeSymbol pattern k = .ok i) :
    encode i = .symbol pattern k := by
  unfold decodeSymbol at h
  split at h
  · next hpattern => cases h; rw [encode_symbolAt, ← hpattern]
  · cases h

/-- A symbol is decoded where the index and the pattern's level bit give it with that pattern. -/
theorem decodeSymbol_of_symbolAt {pattern : BitVec 6} {k : Nat} {i : Instr}
    (h : symbolAt k (pattern.getLsbD 5) = (pattern, i)) : decodeSymbol pattern k = .ok i := by
  rw [decodeSymbol, h, if_pos rfl]

end Sys2Proof

/-! SUPPORT. The statements about encodings and their inverses (R90, R91, R95, R96, R101, R102, R104, R105, R106). -/

namespace Sys2Proof.Machine

/-- Settles O1: format by format, the words of INIT and TRANSMIT by their fields, the records by their forms, the symbols by
the role of their index. -/
theorem decodeEncodeRoundTrip : Obligations.DecodeEncodeRoundTrip := by
  intro i hwf
  cases i with
  | init a b x y =>
    obtain ⟨htx, hen⟩ := Bool.and_eq_true_iff.1 hwf
    obtain ⟨a, ha, rfl⟩ := pinEncodable_iff.1 htx
    obtain ⟨b, hb, rfl⟩ := pinEncodable_iff.1 hen
    exact decodeCmd_encodeInit x y ha hb
  | transmit n => exact decodeCmd_encodeTransmit (of_decide_eq_true hwf)
  | close => rfl
  | engineInit => rfl
  | engineTerm => rfl
  | setPinMode pin => rfl
  | writePin pin level => rfl
  | submitWave => rfl
  | startPlayback => rfl
  | isBusy => rfl
  | deleteWave => rfl
  | enEnable => rfl
  | enDisable => rfl
  | pulseHi m d =>
    obtain ⟨hline, hdur⟩ := Bool.and_eq_true_iff.1 hwf
    simpa [decode, encode] using decodeRecord_eq_pulseHi.2 ⟨hline, by simpa using hdur, rfl⟩
  | pulseLo m d =>
    obtain ⟨hline, hdur⟩ := Bool.and_eq_true_iff.1 hwf
    simpa [decode, encode] using decodeRecord_eq_pulseLo.2 ⟨hline, by simpa using hdur, rfl⟩
  | symBreak => exact decodeSymbol_of_symbolAt rfl
  | symMab => exact decodeSymbol_of_symbolAt rfl
  | symSc => exact decodeSymbol_of_symbolAt rfl
  | symStart i => exact decodeSymbol_of_symbolAt (symbolAt_start i _)
  | symData0 i j => exact decodeSymbol_of_symbolAt (symbolAt_data i j false)
  | symData1 i j => exact decodeSymbol_of_symbolAt (symbolAt_data i j true)
  | symStop i =>
    cases i with
    | none => exact decodeSymbol_of_symbolAt rfl
    | some i => exact decodeSymbol_of_symbolAt (symbolAt_stop i _)

/-- Settles O2: the inverse of each format. -/
theorem decodedFormReencodes : Obligations.DecodedFormReencodes := by
  refine ⟨fun w i h => encode_of_decodeCmd h, fun w i h => ?_, fun pattern k i h => encode_of_decodeSymbol h,
    fun sel pin level i h => encode_of_decodeCall h⟩
  simpa using encode_of_decodeRecord h

/-- Settles O3: the ten words, each read by the decoder. -/
theorem writtenOutWordsDecode : Obligations.WrittenOutWordsDecode := by
  unfold Obligations.WrittenOutWordsDecode
  decide

/-- A raw form that does not decode is refused by the reason's name. -/
theorem runRaw_of_decode_error {s : State} {raw : Raw} {e : DecodeError} (hdec : decode raw = .error e) :
    runRaw raw s = .refused (refusalOf e) := by
  simp only [runRaw, hdec]

/-- Settles O4: the reserved words by their fields, and the refusal the front end gives them. -/
theorem reservedCommandWordsRefused : Obligations.ReservedCommandWordsRefused := by
  constructor
  · intro w
    rw [decode, decodeCmd_eq_error, cmdField_eq_iff (by decide), cmdField_eq_iff (by decide),
      cmdField_eq_iff (by decide), Ne, Ne, cmdField_eq_iff (by decide), cmdField_eq_iff (by decide)]
  · intro s w bytes rest hagenda hdec
    exact (step_of_agenda hagenda).trans (runRaw_of_decode_error hdec)

/-- Settles O5: the decoder by its op, its fields written as bits. -/
theorem commandWordFields : Obligations.CommandWordFields := by
  intro w
  refine ⟨fun hop hzero => ?_, fun hop => ?_, fun hop hzero => ?_⟩
  · have hzero' : cmdField w 20 12 = 0 := (cmdField_eq_iff (by decide)).2 hzero
    rw [decode, decodeCmd_of_op_init ((cmdField_eq_iff (by decide)).2 hop), if_pos hzero', cmdField_one_beq,
      cmdField_one_beq, cmdField_eq_toNat, cmdField_eq_toNat]
  · rw [decode, decodeCmd_of_op_transmit ((cmdField_eq_iff (by decide)).2 hop), cmdField_eq_toNat]
  · have hzero' : cmdField w 2 30 = 0 := (cmdField_eq_iff (by decide)).2 hzero
    rw [decode, decodeCmd_of_op_close ((cmdField_eq_iff (by decide)).2 hop), if_pos hzero']

/-- Settles O6: the decoder's three answers, one line in a mask said by the line. -/
theorem recordFormsAndReservedRecords : Obligations.RecordFormsAndReservedRecords := by
  refine ⟨fun r m d => ?_, fun r m d => ?_, fun r => ?_⟩
  · rw [decodeRecord_eq_pulseHi, oneLine_iff]; rfl
  · rw [decodeRecord_eq_pulseLo, oneLine_iff]; rfl
  · rw [decodeRecord_eq_error, oneLine_iff, oneLine_iff]; rfl

end Sys2Proof.Machine

/-! SUPPORT. The frame of a payload, symbol by symbol (R96, R110). -/

namespace Sys2Proof.Machine

@[simp] theorem byteSymbols_length (i : Nat) (b : Byte) : (byteSymbols i b).length = 10 := rfl

theorem byteSymbols_data (i : Nat) (b : Byte) (j : Fin 8) : (byteSymbols i b)[1 + j.val]? = some (dataSymbol i b j) := by
  rw [byteSymbols, List.getElem?_append_left (by simp; omega), Nat.add_comm, List.getElem?_cons_succ, List.getElem?_map,
    List.getElem?_eq_getElem (by simp), List.getElem_finRange]
  rfl

theorem bytesSymbols_length (i : Nat) (bytes : List Byte) : (bytesSymbols i bytes).length = 10 * bytes.length := by
  induction bytes generalizing i with
  | nil => rfl
  | cons b bytes ih => simp [bytesSymbols, ih]; omega

/-- The ten symbols of byte `m` stand from index `10·m` on. -/
theorem bytesSymbols_getElem? {bytes : List Byte} {m r : Nat} {b : Byte} (i : Nat) (hb : bytes[m]? = some b)
    (hr : r < 10) : (bytesSymbols i bytes)[10 * m + r]? = (byteSymbols (i + m) b)[r]? := by
  induction bytes generalizing i m with
  | nil => cases hb
  | cons b' bytes ih =>
    cases m with
    | zero => cases hb; rw [Nat.mul_zero, Nat.zero_add]; exact List.getElem?_append_left hr
    | succ m =>
      rw [bytesSymbols, List.getElem?_append_right (by simp; omega), byteSymbols_length,
        show 10 * (m + 1) + r - 10 = 10 * m + r by omega, ih (i + 1) hb, Nat.add_right_comm, Nat.add_assoc]

theorem frameSymbols_length (bytes : List Byte) : (frameSymbols bytes).length = 4 + 10 * bytes.length := by
  simp [frameSymbols, bytesSymbols_length]; omega

/-- The ten symbols of byte `i` stand in the frame from index `4 + 10·i` on. -/
theorem frameSymbols_getElem? {bytes : List Byte} {i r : Nat} {b : Byte} (hb : bytes[i]? = some b) (hr : r < 10) :
    (frameSymbols bytes)[4 + 10 * i + r]? = (byteSymbols i b)[r]? := by
  rw [frameSymbols, List.getElem?_append_right (by simp; omega), ← Nat.zero_add i, ← bytesSymbols_getElem? 0 hb hr]
  simp [Nat.add_assoc]

theorem frameSymbols_start {bytes : List Byte} {i : Nat} {b : Byte} (hb : bytes[i]? = some b) :
    (frameSymbols bytes)[4 + 10 * i]? = some (.symStart i) := frameSymbols_getElem? hb (r := 0) (by decide)

theorem frameSymbols_data {bytes : List Byte} {i : Nat} {b : Byte} (hb : bytes[i]? = some b) (j : Fin 8) :
    (frameSymbols bytes)[4 + 10 * i + 1 + j.val]? = some (dataSymbol i b j) := by
  rw [Nat.add_assoc _ 1, frameSymbols_getElem? hb (by omega), byteSymbols_data]

theorem frameSymbols_stop {bytes : List Byte} {i : Nat} {b : Byte} (hb : bytes[i]? = some b) :
    (frameSymbols bytes)[4 + 10 * i + 9]? = some (.symStop (some i)) := frameSymbols_getElem? hb (by decide)

/-- Every pulse of the frame has the role its index gives, for one of the two values of a data bit. -/
theorem frameSymbols_symbolAt {bytes : List Byte} {k : Nat} (hk : k < 4 + 10 * bytes.length) :
    ∃ v, (frameSymbols bytes)[k]? = some (symbolAt k v).2 := by
  obtain rfl | rfl | rfl | rfl | ⟨i, hi⟩ := pulseIndex_cases k
  · exact ⟨false, rfl⟩
  · exact ⟨false, rfl⟩
  · exact ⟨false, rfl⟩
  · exact ⟨false, rfl⟩
  have hb : bytes[i]? = some (bytes[i]'(by omega)) := List.getElem?_eq_getElem (by omega)
  obtain rfl | ⟨j, rfl⟩ | rfl := hi
  · exact ⟨false, by rw [frameSymbols_start hb, symbolAt_start]⟩
  · refine ⟨(bytes[i]'(by omega)).getLsbD j.val, ?_⟩
    rw [frameSymbols_data hb, symbolAt_data, dataSymbol, apply_ite Prod.snd]
  · exact ⟨false, by rw [frameSymbols_stop hb, symbolAt_stop]⟩

/-- Settles O7: the preamble, the ten symbols of a byte, and the role by index. -/
theorem roleOfPulseFromIndex : Obligations.RoleOfPulseFromIndex := by
  refine fun bytes => ⟨frameSymbols_length bytes, rfl, rfl, rfl, rfl, fun i b hb =>
    ⟨frameSymbols_start hb, frameSymbols_data hb, frameSymbols_stop hb⟩, fun k b => ?_⟩
  by_cases hk : k < 4 + 10 * bytes.length
  · obtain ⟨v, hv⟩ := frameSymbols_symbolAt hk
    obtain rfl | rfl := Bool.eq_or_eq_not v b
    · exact .inl hv
    · exact .inr (.inl hv)
  · exact .inr (.inr (by omega))

end Sys2Proof.Machine

/-! SUPPORT. The record of a symbol (R91, R93, R94), and the records that are refused (R106, R174). -/

namespace Sys2Proof.Machine

variable {s : State} {c : PinConfig}

/-- A duration that fits its 32 bits is `n · U` (R94). -/
theorem duration_toNat {n : Nat} (hn : n * Config.u < 2 ^ 32) : (duration n).toNat = n * Config.u := by
  rw [duration, BitVec.toNat_ofNat, Nat.mod_eq_of_lt hn]

@[simp] theorem mkPulse_dur (c : PinConfig) (l : Logical) (n : Nat) : (mkPulse c l n).dur = duration n := by
  unfold mkPulse; split <;> rfl

/-- A symbol whose physical level is high is a PULSE.HI on TX (R93). -/
theorem mkPulse_of_high {l : Logical} (n : Nat) (h : physicalTx l c.invertTx = true) :
    mkPulse c l n = { set := pinMask c.txPin, clr := 0#32, dur := duration n } := if_pos h

/-- A symbol whose physical level is low is a PULSE.LO on TX (R93). -/
theorem mkPulse_of_low {l : Logical} (n : Nat) (h : physicalTx l c.invertTx = false) :
    mkPulse c l n = { set := 0#32, clr := pinMask c.txPin, dur := duration n } := if_neg (Bool.not_eq_true _ ▸ h)

/-- A symbol's record has one of the two forms of R91 on TX. -/
theorem mkPulse_form (c : PinConfig) (l : Logical) (n : Nat) :
    ((mkPulse c l n).set = pinMask c.txPin ∧ (mkPulse c l n).clr = 0#32) ∨
    ((mkPulse c l n).set = 0#32 ∧ (mkPulse c l n).clr = pinMask c.txPin) := by
  cases h : physicalTx l c.invertTx with
  | true => rw [mkPulse_of_high n h]; exact .inl ⟨rfl, rfl⟩
  | false => rw [mkPulse_of_low n h]; exact .inr ⟨rfl, rfl⟩

/-- Settles O9: the form by the physical level of each row of R93's table. -/
theorem symbolRecordForm : Obligations.SymbolRecordForm := by
  intro c n hn
  refine ⟨fun l => by rw [mkPulse_dur, duration_toNat hn], fun hinv => ?_, fun hinv => ?_⟩
  · rw [mkPulse_of_high (l := .mark) n (by rw [hinv]; rfl), mkPulse_of_low (l := .space) n (by rw [hinv]; rfl)]
    exact ⟨rfl, rfl, rfl, rfl⟩
  · rw [mkPulse_of_low (l := .mark) n (by rw [hinv]; rfl), mkPulse_of_high (l := .space) n (by rw [hinv]; rfl)]
    exact ⟨rfl, rfl, rfl, rfl⟩

/-- Settles O10: every record is a symbol's, of a duration that is not zero. -/
theorem encoderMakesOnlyTxForms : Obligations.EncoderMakesOnlyTxForms := by
  intro c bytes r hr
  obtain ⟨l, n, hn, rfl⟩ := mem_encodeRecords hr
  have hpos : ∀ n ∈ [1, 2, 9, 22], 0 < (duration n).toNat := by decide
  exact ⟨by rw [mkPulse_dur]; exact hpos n hn, mkPulse_form c l n⟩

/-! ### Reserved records -/

theorem playRecord_of_reserved {r : Pulse} (h : reservedRecord s.cfg r = true) :
    playRecord r s = .refused .reservedPulse := by
  rw [playRecord, if_pos h]

/-- PULSE.HI plays its record. -/
theorem exec_pulseHi_of_clr {r : Pulse} (h : r.clr = 0#32) : exec (.pulseHi r.set r.dur) s = playRecord r s :=
  congrArg (fun m => playRecord { set := r.set, clr := m, dur := r.dur } s) h.symm

/-- PULSE.LO plays its record. -/
theorem exec_pulseLo_of_set {r : Pulse} (h : r.set = 0#32) : exec (.pulseLo r.clr r.dur) s = playRecord r s :=
  congrArg (fun m => playRecord { set := m, clr := r.clr, dur := r.dur } s) h.symm

/-- A reserved record fetched is refused, by the decoder or where the form it is decoded to is played. -/
theorem runRecord_of_reserved {r : Pulse} (h : reservedRecord s.cfg r = true) :
    runRecord r s = .refused .reservedPulse := by
  unfold runRecord
  split
  · next i hi =>
    obtain ⟨-, ⟨hclr, -, rfl⟩ | ⟨hset, -, rfl⟩⟩ := decodeRecord_eq_ok.1 hi
    · rw [exec_pulseHi_of_clr hclr, playRecord_of_reserved h]
    · rw [exec_pulseLo_of_set hset, playRecord_of_reserved h]
  · rfl

/-- The records reserved under a configuration: no duration, or neither form on `x[0]` (R106). -/
theorem reservedRecord_some {r : Pulse} :
    reservedRecord (some c) r = true ↔
      r.dur = 0#32 ∨ (¬ (r.set = pinMask c.txPin ∧ r.clr = 0#32) ∧ ¬ (r.set = 0#32 ∧ r.clr = pinMask c.txPin)) := by
  simp [reservedRecord, imp_iff_not_or]

/-- Settles O36: the record is reserved under the configuration, and refused on each of the three ways. -/
theorem reservedRecordsRefused : Obligations.ReservedRecordsRefused := by
  intro s c r hcfg hkind
  have hres : reservedRecord s.cfg r = true := by rw [hcfg]; exact reservedRecord_some.2 hkind
  exact ⟨runRecord_of_reserved hres, fun hclr => (exec_pulseHi_of_clr hclr).trans (playRecord_of_reserved hres),
    fun hset => (exec_pulseLo_of_set hset).trans (playRecord_of_reserved hres)⟩

end Sys2Proof.Machine

/-! SUPPORT. The symbols as operations (R132 to R139): each writes the record its encoding names, and the frame of a payload
run in order writes what `encode` makes (R110, R140). -/

namespace Sys2Proof.Machine

variable {s : State} {c : PinConfig}

@[simp] theorem readRecord_setPsRecord_same (k : Nat) (r : Pulse) (s : State) :
    readRecord (setPsRecord k r s).ps.entry k = r := by
  rw [setPsRecord, readRecord_writeRecord, if_pos rfl]

theorem readRecord_setPsRecord_other {k m : Nat} (r : Pulse) (s : State) (hm : m ≠ k) :
    readRecord (setPsRecord k r s).ps.entry m = readRecord s.ps.entry m := by
  rw [setPsRecord, readRecord_writeRecord, if_neg hm]

/-- A symbol writes, at the index of its encoding, the record of its pattern's level bit and units (R95, R96). -/
theorem exec_of_encode_symbol {i : Instr} {pattern : BitVec 6} {k : Nat} (h : encode i = .symbol pattern k) :
    exec i s =
      putSymbol k (if pattern.getLsbD 5 then .mark else .space) (pattern.extractLsb' 0 5).toNat s := by
  cases i with
  | symBreak | symMab | symSc | symStart i | symData0 i j | symData1 i j => cases h; rfl
  | symStop i => cases i <;> cases h <;> rfl
  | _ => cases h

/-- Settles O38: the record is made on the free line and polarity the registers read as. -/
theorem symbolsRunWithoutConfiguration : Obligations.SymbolsRunWithoutConfiguration := by
  intro s i pattern k henc hcfg
  have hfits : (pattern.extractLsb' 0 5).toNat * Config.u < 2 ^ 32 := by
    have := (pattern.extractLsb' 0 5).isLt
    rw [Config.u]; omega
  refine ⟨_, _, (readConfig s).txPin, exec_of_encode_symbol henc, readRecord_setPsRecord_same _ _ _,
    fun m hm => ?_, ?_, mkPulse_form _ _ _, ?_⟩
  · rw [readRecord_setPsRecord_other _ _ hm, afterReadConfig_ps]
  · rw [mkPulse_dur, duration_toNat hfits]
  · simp only [setPsRecord, afterReadConfig, hcfg]

/-! ### Runs of symbols -/

/-- Under configuration `c` operation `i` writes record `k` of PS and does nothing else. -/
def WritesRecord (c : PinConfig) (k : Nat) (i : Instr) (r : Pulse) : Prop :=
  ∀ s, s.cfg = some c → exec i s = .next (setPsRecord k r s)

/-- The operations `is` write the records `rs` from index `k` on, one each, in order. -/
inductive WritesFrom (c : PinConfig) : Nat → List Instr → List Pulse → Prop
  | nil (k : Nat) : WritesFrom c k [] []
  | cons {k : Nat} {i : Instr} {r : Pulse} {is : List Instr} {rs : List Pulse} (hwrite : WritesRecord c k i r)
      (hrest : WritesFrom c (k + 1) is rs) : WritesFrom c k (i :: is) (r :: rs)

theorem WritesFrom.append {k : Nat} {is js : List Instr} {rs qs : List Pulse} (his : WritesFrom c k is rs)
    (hjs : WritesFrom c (k + is.length) js qs) : WritesFrom c k (is ++ js) (rs ++ qs) := by
  induction his with
  | nil k => exact hjs
  | cons hwrite _ ih => exact .cons hwrite (ih (by rwa [List.length_cons, Nat.add_comm _ 1, ← Nat.add_assoc] at hjs))

theorem WritesFrom.ofFn {n k : Nat} {f : Fin n → Instr} {g : Fin n → Pulse}
    (h : ∀ j, WritesRecord c (k + j.val) (f j) (g j)) : WritesFrom c k (List.ofFn f) (List.ofFn g) := by
  induction n generalizing k with
  | zero => exact .nil k
  | succ n ih =>
    rw [List.ofFn_succ, List.ofFn_succ]
    refine .cons (h 0) (ih fun j => ?_)
    rw [Nat.add_assoc, Nat.add_comm 1]
    exact h j.succ

theorem execAll_cons_of_next {t : State} {i : Instr} (is : List Instr) (h : exec i s = .next t) :
    execAll (i :: is) s = execAll is t := by
  simp only [execAll, h]

/-- PS with the records `rs` after those it holds. -/
def appendRecords (rs : List Pulse) (s : State) : State := { s with ps := { s.ps with entry := s.ps.entry ++ rs } }

@[simp] theorem appendRecords_cfg (rs : List Pulse) (s : State) : (appendRecords rs s).cfg = s.cfg := rfl

@[simp] theorem appendRecords_ps_entry (rs : List Pulse) (s : State) :
    (appendRecords rs s).ps.entry = s.ps.entry ++ rs := rfl

@[simp] theorem appendRecords_nil (s : State) : appendRecords [] s = s := by rw [appendRecords, List.append_nil]

theorem appendRecords_appendRecords (rs qs : List Pulse) (s : State) :
    appendRecords qs (appendRecords rs s) = appendRecords (rs ++ qs) s := by
  simp only [appendRecords, List.append_assoc]

/-- A record written at the end of PS is appended to it. -/
theorem setPsRecord_length (r : Pulse) (s : State) : setPsRecord s.ps.entry.length r s = appendRecords [r] s := by
  rw [setPsRecord, writeRecord_length, appendRecords]

/-- Records written from the end of PS on are appended to it. -/
theorem execAll_of_writesFrom {k : Nat} {is : List Instr} {rs : List Pulse} (h : WritesFrom c k is rs)
    (hcfg : s.cfg = some c) (hlen : s.ps.entry.length = k) :
    execAll is s = .next (appendRecords rs s) := by
  induction h generalizing s with
  | nil k => rw [appendRecords_nil, execAll]
  | cons hwrite _ ih =>
    subst hlen
    rw [execAll_cons_of_next _ (hwrite s hcfg), setPsRecord_length, ih ((appendRecords_cfg _ s).trans hcfg) (by simp),
      appendRecords_appendRecords, List.singleton_append]

/-! ### The symbols of a frame -/

theorem dataSymbol_writes (c : PinConfig) (i : Nat) (b : Byte) (j : Fin 8) :
    WritesRecord c (4 + 10 * i + 1 + j.val) (dataSymbol i b j) (mkPulse c (dataLevel b j.val) 1) := by
  intro s hcfg
  unfold dataSymbol dataLevel
  split <;> exact putSymbol_of_cfg hcfg

theorem byteSymbols_writes (c : PinConfig) (i : Nat) (b : Byte) :
    WritesFrom c (4 + 10 * i) (byteSymbols i b) (byteRecords c b) :=
  have hstart : WritesRecord c (4 + 10 * i) (.symStart i) (mkPulse c .space 1) := fun _ => putSymbol_of_cfg
  have hstop : WritesRecord c (4 + 10 * i + 9) (.symStop (some i)) (mkPulse c .mark 2) := fun _ => putSymbol_of_cfg
  .append (.cons hstart (.ofFn (dataSymbol_writes c i b))) (.cons hstop (.nil _))

theorem bytesSymbols_writes (c : PinConfig) (i : Nat) (bytes : List Byte) :
    WritesFrom c (4 + 10 * i) (bytesSymbols i bytes) (bytes.flatMap (byteRecords c)) := by
  induction bytes generalizing i with
  | nil => exact .nil _
  | cons b bytes ih => exact .append (byteSymbols_writes c i b) (ih (i + 1))

theorem frameSymbols_writes (c : PinConfig) (bytes : List Byte) :
    WritesFrom c 0 (frameSymbols bytes) (encodeRecords c bytes) :=
  have hpreamble : WritesFrom c 0 [.symBreak, .symMab, .symSc, .symStop none] (preambleRecords c) :=
    .cons (fun _ => putSymbol_of_cfg) (.cons (fun _ => putSymbol_of_cfg)
      (.cons (fun _ => putSymbol_of_cfg) (.cons (fun _ => putSymbol_of_cfg) (.nil _))))
  hpreamble.append (bytesSymbols_writes c 0 bytes)

/-- Settles O16: each symbol writes its record at the end of PS, by induction on the payload. -/
theorem frameOfSymbolsIsEncode : Obligations.FrameOfSymbolsIsEncode := by
  refine ⟨fun s c bytes hcfg hps => ?_, fun _ => rfl, fun _ _ _ => rfl⟩
  rw [execAll_of_writesFrom (frameSymbols_writes c bytes) hcfg (by rw [hps]; rfl), appendRecords, hps, List.nil_append]

end Sys2Proof.Machine

/-! SUPPORT. The stream that follows a command word (R41, R101). -/

namespace Sys2Proof.Machine

/-- A byte from the end of a stream on is left alone. -/
theorem Memory.read_place_above {m : Memory} (bs : List Byte) (i j : Nat) (h : Memory.wf m = true)
    (hj : i + bs.length ≤ j) : Memory.read (Memory.place m i bs) j = Memory.read m j := by
  induction bs generalizing m i with
  | nil => rfl
  | cons b bs ih =>
    rw [List.length_cons] at hj
    rw [Memory.place, ih (i + 1) (Memory.wf_write i b h) (by omega), Memory.read_write_other b h (by omega)]

/-- Settles O46: the stream is read back byte by byte, and the bytes from its end on are as before. -/
theorem streamBecomesPayload : Obligations.StreamBecomesPayload := by
  intro s bytes hwf
  refine ⟨List.ext_getElem (payload_length _ _) fun k _ hk => ?_, fun a ha =>
    Memory.read_place_above bytes 0 a hwf (by rwa [Nat.zero_add])⟩
  rw [← Memory.read_place bytes 0 k hwf hk]
  simp [payload]

end Sys2Proof.Machine

/-! SUPPORT. A list of records in time (R141, R143, R175): the durations summed, when each record starts, and the level of a
line while a record is held. -/

namespace Sys2Proof.Machine

variable {rs qs : List Pulse} {r : Pulse}

/-! ### Durations and offsets -/

theorem totalMicros_eq_sum (rs : List Pulse) : totalMicros rs = (rs.map fun r => r.dur.toNat).sum := by
  induction rs with
  | nil => rfl
  | cons r rs ih => rw [totalMicros, ih, List.map_cons, List.sum_cons]

@[simp] theorem totalMicros_append (rs qs : List Pulse) : totalMicros (rs ++ qs) = totalMicros rs + totalMicros qs := by
  simp only [totalMicros_eq_sum, List.map_append, List.sum_append]

theorem offsetMicros_eq_sum (rs : List Pulse) (k : Nat) :
    offsetMicros rs k = ((rs.map fun r => r.dur.toNat).take k).sum := by
  rw [offsetMicros, totalMicros_eq_sum, List.map_take]

@[simp] theorem offsetMicros_zero (rs : List Pulse) : offsetMicros rs 0 = 0 := rfl

theorem offsetMicros_cons_succ (r : Pulse) (rs : List Pulse) (k : Nat) :
    offsetMicros (r :: rs) (k + 1) = r.dur.toNat + offsetMicros rs k := rfl

/-- The end of a sequence is its whole duration. -/
theorem offsetMicros_length (rs : List Pulse) : offsetMicros rs rs.length = totalMicros rs := by
  rw [offsetMicros, List.take_length]

/-- A record of the first of two sequences starts as in that sequence alone. -/
theorem offsetMicros_append_left {k : Nat} (qs : List Pulse) (hk : k ≤ rs.length) :
    offsetMicros (rs ++ qs) k = offsetMicros rs k := by
  rw [offsetMicros, List.take_append_of_le_length hk, offsetMicros]

/-- A record of the second of two sequences starts when the first has ended and its own offset has passed. -/
theorem offsetMicros_append_right (rs qs : List Pulse) (k : Nat) :
    offsetMicros (rs ++ qs) (rs.length + k) = totalMicros rs + offsetMicros qs k := by
  rw [offsetMicros, List.take_length_add_append, totalMicros_append, offsetMicros]

/-! ### Levels -/

/-- While record `k` is held the line is at the level that record leaves it at (R172, R175). -/
theorem levelAt_of_held {k t : Nat} (p : Pin) (old : Bool) (hr : rs[k]? = some r) (hstart : offsetMicros rs k ≤ t)
    (hend : t < offsetMicros rs k + r.dur.toNat) : ∃ before, levelAt p rs t old = recordLevel r p before := by
  induction rs generalizing k t old with
  | nil => cases hr
  | cons q rs ih =>
    cases k with
    | zero =>
      cases hr
      exact ⟨old, if_pos (by simpa using hend)⟩
    | succ k =>
      rw [offsetMicros_cons_succ] at hstart hend
      rw [levelAt, if_neg (by omega)]
      exact ih _ hr (by omega) (by omega)

/-- Sequences that give a line the same level at every time do so after one more record. -/
theorem levelAt_cons_congr {p : Pin} (r : Pulse) (t : Nat) (old : Bool)
    (h : ∀ t old, levelAt p rs t old = levelAt p qs t old) : levelAt p (r :: rs) t old = levelAt p (r :: qs) t old := by
  rw [levelAt, levelAt, h]

end Sys2Proof.Machine

/-! SUPPORT. What `encode` makes (R140): the record at every index, when it starts, and how long the sequence lasts (R99,
R141, R143). -/

namespace Sys2Proof.Machine

variable {c : PinConfig} {bytes : List Byte} {i : Nat} {b : Byte}

/-! ### Durations (R99, R141) -/

theorem preambleRecords_micros (c : PinConfig) :
    ((preambleRecords c).map fun r => r.dur.toNat) = [22 * Config.u, 2 * Config.u, 9 * Config.u, 2 * Config.u] := by
  simp only [preambleRecords, List.map_cons, List.map_nil, mkPulse_dur]
  rfl

/-- The START and the data bits of a byte last one unit each, its STOP two. -/
theorem byteRecords_micros (c : PinConfig) (b : Byte) :
    ((byteRecords c b).map fun r => r.dur.toNat) = List.replicate 9 Config.u ++ [2 * Config.u] := by
  simp only [byteRecords, List.map_append, List.map_cons, List.map_map, List.map_nil, Function.comp_def, mkPulse_dur]
  rfl

theorem totalMicros_preambleRecords (c : PinConfig) : totalMicros (preambleRecords c) = 35 * Config.u := by
  rw [totalMicros_eq_sum, preambleRecords_micros]; rfl

theorem totalMicros_byteRecords (c : PinConfig) (b : Byte) : totalMicros (byteRecords c b) = 11 * Config.u := by
  rw [totalMicros_eq_sum, byteRecords_micros]; rfl

theorem totalMicros_flatMap_byteRecords (c : PinConfig) (bytes : List Byte) :
    totalMicros (bytes.flatMap (byteRecords c)) = bytes.length * (11 * Config.u) := by
  induction bytes with
  | nil => rw [List.length_nil, Nat.zero_mul]; rfl
  | cons b bytes ih =>
    rw [List.flatMap_cons, totalMicros_append, totalMicros_byteRecords, ih, List.length_cons]
    ring

/-- The whole sequence lasts `(35 + 11·N)·U` (R141). -/
theorem totalMicros_encodeRecords (c : PinConfig) (bytes : List Byte) :
    totalMicros (encodeRecords c bytes) = (35 + 11 * bytes.length) * Config.u := by
  rw [encodeRecords, totalMicros_append, totalMicros_preambleRecords, totalMicros_flatMap_byteRecords]
  ring

/-- Settles O11: the preamble's records and those of each byte, summed. -/
theorem encodedLengthAndDuration : Obligations.EncodedLengthAndDuration := fun c bytes =>
  ⟨encodeRecords_length c bytes, totalMicros_encodeRecords c bytes, fun b =>
    ⟨byteRecords_length c b, totalMicros_byteRecords c b⟩⟩

/-! ### The record at every index (R140) -/

/-- The records of byte `i` stand in the sequence after the encoding of the bytes before it. -/
theorem encodeRecords_split (c : PinConfig) (hb : bytes[i]? = some b) :
    ∃ rest, encodeRecords c bytes = encodeRecords c (bytes.take i) ++ (byteRecords c b ++ rest) := by
  obtain ⟨hi, rfl⟩ := List.getElem?_eq_some_iff.1 hb
  refine ⟨(bytes.drop (i + 1)).flatMap (byteRecords c), ?_⟩
  conv_lhs => rw [← List.take_append_drop i bytes, List.drop_eq_getElem_cons hi]
  simp only [encodeRecords, List.flatMap_append, List.flatMap_cons, List.append_assoc]

/-- The encoding of the bytes before byte `i` ends at index `4 + 10·i`. -/
theorem encodeRecords_take_length (c : PinConfig) (hi : i ≤ bytes.length) :
    (encodeRecords c (bytes.take i)).length = 4 + 10 * i := by
  rw [encodeRecords_length, List.length_take_of_le hi]

theorem encodeRecords_getElem? {k : Nat} (c : PinConfig) (hb : bytes[i]? = some b) (hk : k < 10) :
    (encodeRecords c bytes)[4 + 10 * i + k]? = (byteRecords c b)[k]? := by
  obtain ⟨rest, hsplit⟩ := encodeRecords_split c hb
  have hi := (List.getElem?_eq_some_iff.1 hb).1
  rw [hsplit, ← encodeRecords_take_length c hi.le, List.getElem?_append_right (Nat.le_add_right _ _),
    Nat.add_sub_cancel_left, List.getElem?_append_left (by rwa [byteRecords_length])]

theorem byteRecords_data {j : Nat} (c : PinConfig) (b : Byte) (hj : j < 8) :
    (byteRecords c b)[1 + j]? = some (mkPulse c (dataLevel b j) 1) := by
  rw [byteRecords, List.getElem?_append_left (by simp; omega), Nat.add_comm, List.getElem?_cons_succ, List.getElem?_map,
    List.getElem?_range hj, Option.map_some]

theorem encodeRecords_start (c : PinConfig) (hb : bytes[i]? = some b) :
    (encodeRecords c bytes)[4 + 10 * i]? = some (mkPulse c .space 1) :=
  encodeRecords_getElem? c hb (k := 0) (by decide)

theorem encodeRecords_data {j : Nat} (c : PinConfig) (hb : bytes[i]? = some b) (hj : j < 8) :
    (encodeRecords c bytes)[4 + 10 * i + 1 + j]? = some (mkPulse c (dataLevel b j) 1) := by
  rw [Nat.add_assoc _ 1, encodeRecords_getElem? c hb (by omega), byteRecords_data c b hj]

theorem encodeRecords_stop (c : PinConfig) (hb : bytes[i]? = some b) :
    (encodeRecords c bytes)[4 + 10 * i + 9]? = some (mkPulse c .mark 2) :=
  encodeRecords_getElem? c hb (by decide)

/-- The level of a data bit by the value of the byte, bit 0 the least significant (R60). -/
theorem dataLevel_eq_div_mod (b : Byte) (j : Nat) :
    dataLevel b j = if (b.toNat / 2 ^ j) % 2 = 1 then .mark else .space := by
  simp only [dataLevel, BitVec.getLsbD, Nat.testBit_eq_decide_div_mod_eq, decide_eq_true_eq]

/-- Settles O12: the preamble by its own list, and the ten records of each byte. -/
theorem encodedRecordAtIndex : Obligations.EncodedRecordAtIndex := by
  refine fun c bytes => ⟨rfl, rfl, rfl, rfl, fun i b hb =>
    ⟨encodeRecords_start c hb, fun j hj => ?_, encodeRecords_stop c hb⟩⟩
  rw [encodeRecords_data c hb hj, dataLevel_eq_div_mod]

/-! ### Start offsets (R143) -/

/-- The offsets of the preamble and the start code. -/
theorem offsetMicros_preamble {k : Nat} (c : PinConfig) (bytes : List Byte) (hk : k ≤ 4) :
    offsetMicros (encodeRecords c bytes) k =
      ([22 * Config.u, 2 * Config.u, 9 * Config.u, 2 * Config.u].take k).sum := by
  rw [encodeRecords, offsetMicros_append_left _ hk, offsetMicros_eq_sum, preambleRecords_micros]

/-- Within a byte, record `k` starts `k` units after the START. -/
theorem offsetMicros_byteRecords {k : Nat} (c : PinConfig) (b : Byte) (hk : k ≤ 9) :
    offsetMicros (byteRecords c b) k = k * Config.u := by
  rw [offsetMicros_eq_sum, byteRecords_micros, List.take_append_of_le_length (by rwa [List.length_replicate]),
    List.take_replicate, Nat.min_eq_left hk, List.sum_replicate, smul_eq_mul]

/-- Record `k` of byte `i` starts `35 + 11·i + k` units after the break does. -/
theorem offsetMicros_byte {k : Nat} (c : PinConfig) (hb : bytes[i]? = some b) (hk : k ≤ 9) :
    offsetMicros (encodeRecords c bytes) (4 + 10 * i + k) = (35 + 11 * i + k) * Config.u := by
  obtain ⟨rest, hsplit⟩ := encodeRecords_split c hb
  have hi := (List.getElem?_eq_some_iff.1 hb).1
  rw [hsplit, ← encodeRecords_take_length c hi.le, offsetMicros_append_right,
    offsetMicros_append_left _ (by rw [byteRecords_length]; omega), offsetMicros_byteRecords c b hk,
    totalMicros_encodeRecords, List.length_take_of_le hi.le, ← Nat.add_mul]

theorem offsetMicros_data {j : Nat} (c : PinConfig) (hb : bytes[i]? = some b) (hj : j < 8) :
    offsetMicros (encodeRecords c bytes) (4 + 10 * i + 1 + j) = (36 + 11 * i + j) * Config.u := by
  rw [Nat.add_assoc _ 1, offsetMicros_byte c hb (by omega)]
  congr 1; omega

/-- The end of the frame. -/
theorem offsetMicros_end (c : PinConfig) (bytes : List Byte) :
    offsetMicros (encodeRecords c bytes) (4 + 10 * bytes.length) = (35 + 11 * bytes.length) * Config.u := by
  rw [← encodeRecords_length c bytes, offsetMicros_length, totalMicros_encodeRecords]

/-- Settles O13: the preamble, record `k` of each byte, and the end. -/
theorem startOffsets : Obligations.StartOffsets := by
  refine fun c bytes => ⟨offsetMicros_preamble c bytes (k := 0) (by decide),
    offsetMicros_preamble c bytes (k := 1) (by decide), offsetMicros_preamble c bytes (k := 2) (by decide),
    offsetMicros_preamble c bytes (k := 3) (by decide), fun i hi => ?_, offsetMicros_end c bytes⟩
  have hb : bytes[i]? = some bytes[i] := List.getElem?_eq_getElem hi
  refine ⟨offsetMicros_byte c hb (k := 0) (by decide), fun j hj => offsetMicros_data c hb hj, ?_⟩
  rw [offsetMicros_byte c hb (k := 9) (by decide)]
  congr 1; omega

end Sys2Proof.Machine

/-! SUPPORT. The waveform on TX (R145, R175): the level in the middle of a data bit, and records of one level held one after
another (R134). -/

namespace Sys2Proof.Machine

variable {c : PinConfig} {bytes : List Byte} {i j : Nat} {b : Byte}

/-! ### The level of a symbol -/

/-- The logical level is read off the wire by undoing the polarity (R14, R93). -/
@[simp] theorem physicalTx_xor_invertTx (l : Logical) (inv : Bool) : (physicalTx l inv ^^ inv) = (l == .mark) := by
  rw [physicalTx, Bool.xor_assoc, Bool.xor_self, Bool.xor_false]

@[simp] theorem dataLevel_beq_mark (b : Byte) (j : Nat) : (dataLevel b j == .mark) = b.getLsbD j := by
  unfold dataLevel
  cases b.getLsbD j <;> rfl

theorem physicalTx_dataLevel (b : Byte) (j : Nat) (inv : Bool) :
    physicalTx (dataLevel b j) inv = (b.getLsbD j ^^ inv) := by
  rw [physicalTx, dataLevel_beq_mark]

/-- A symbol's record decodes to PULSE.HI exactly when its physical level is high (R93). -/
theorem decodeRecord_mkPulse_pulseHi {n : Nat} {l : Logical} (hn : duration n ≠ 0#32) :
    (∃ m d, decodeRecord (mkPulse c l n) = .ok (.pulseHi m d)) ↔ physicalTx l c.invertTx = true := by
  constructor
  · rintro ⟨m, d, hdec⟩
    obtain ⟨hline, -, hform⟩ := decodeRecord_eq_pulseHi.1 hdec
    by_contra hlow
    rw [mkPulse_of_low n (Bool.eq_false_of_not_eq_true hlow)] at hform
    have hset : 0#32 = m := congrArg Pulse.set hform
    exact ne_zero_of_oneLine hline hset.symm
  · intro hhigh
    exact ⟨_, _, decodeRecord_eq_pulseHi.2 ⟨oneLine_pinMask c.txPin, hn, mkPulse_of_high n hhigh⟩⟩

/-! ### Sampling (R145) -/

/-- In the middle of a data bit's window TX is at the level of that bit. -/
theorem levelAt_dataBit (c : PinConfig) (old : Bool) (hb : bytes[i]? = some b) (hj : j < 8) :
    (levelAt c.txPin (encodeRecords c bytes) ((36 + 11 * i + j) * Config.u + Config.u / 2) old ^^ c.invertTx) =
      b.getLsbD j := by
  have hstart := offsetMicros_data c hb hj
  have hunit : Config.u / 2 < (mkPulse c (dataLevel b j) 1).dur.toNat := by rw [mkPulse_dur]; decide
  obtain ⟨before, hlevel⟩ := levelAt_of_held (t := (36 + 11 * i + j) * Config.u + Config.u / 2) c.txPin old
    (encodeRecords_data c hb hj) (by omega) (by omega)
  rw [hlevel, recordLevel_mkPulse, if_pos rfl, physicalTx_xor_invertTx, dataLevel_beq_mark]

/-- Two payloads with one encoding are equal: they have one length, and the same samples. -/
theorem encodeRecords_injective (c : PinConfig) : Function.Injective (encodeRecords c) := by
  intro bytes bytes' h
  have hlen : bytes.length = bytes'.length := by
    have := congrArg List.length h
    rw [encodeRecords_length, encodeRecords_length] at this
    omega
  refine List.ext_getElem hlen fun i hi hi' => BitVec.eq_of_getLsbD_eq fun j hj => ?_
  rw [← levelAt_dataBit c false (List.getElem?_eq_getElem hi) hj, h,
    levelAt_dataBit c false (List.getElem?_eq_getElem hi') hj]

/-- Settles O15: the record held in the middle of a data bit is that bit's. -/
theorem samplingRecoversPayload : Obligations.SamplingRecoversPayload := by
  refine fun c bytes => ⟨fun i b j old hb hj => levelAt_dataBit c old hb hj, fun i b j hb hj => ?_,
    fun bytes' h => encodeRecords_injective c h⟩
  refine ⟨_, encodeRecords_data c hb hj, ?_⟩
  rw [decodeRecord_mkPulse_pulseHi (by decide), physicalTx_dataLevel]

/-! ### Records of one level merged (R134, R175) -/

/-- Two records of one level on TX are one record that lasts as long as both. -/
theorem levelAt_mkPulse_merge {m n : Nat} {l : Logical} (rs : List Pulse) (t : Nat) (old : Bool)
    (hfits : (m + n) * Config.u < 2 ^ 32) :
    levelAt c.txPin (mkPulse c l (m + n) :: rs) t old =
      levelAt c.txPin (mkPulse c l m :: mkPulse c l n :: rs) t old := by
  have hsum : (m + n) * Config.u = m * Config.u + n * Config.u := Nat.add_mul _ _ _
  simp only [levelAt, mkPulse_dur, recordLevel_mkPulse, if_true, duration_toNat hfits,
    duration_toNat (n := m) (by omega), duration_toNat (n := n) (by omega), hsum]
  by_cases hm : t < m * Config.u
  · rw [if_pos hm, if_pos (by omega)]
  · rw [if_neg hm, Nat.sub_sub]
    exact if_congr (by omega) rfl rfl

/-- A record of `n + 1` units is the same waveform as as many records of one unit. -/
theorem levelAt_mkPulse_units {n : Nat} {l : Logical} (rs : List Pulse) (t : Nat) (old : Bool)
    (hfits : (n + 1) * Config.u < 2 ^ 32) :
    levelAt c.txPin (mkPulse c l (n + 1) :: rs) t old =
      levelAt c.txPin (List.replicate (n + 1) (mkPulse c l 1) ++ rs) t old := by
  induction n generalizing t old with
  | zero => rfl
  | succ n ih =>
    have hrest : (n + 1) * Config.u < 2 ^ 32 := by rw [Nat.succ_mul] at hfits; omega
    rw [Nat.add_comm (n + 1) 1] at hfits ⊢
    rw [levelAt_mkPulse_merge rs t old hfits, Nat.add_comm 1 (n + 1), List.replicate_succ, List.cons_append]
    exact levelAt_cons_congr _ t old fun t old => ih t old hrest

/-- Settles O17: nine units of space, merged. -/
theorem mergedStartCodeSameWaveform : Obligations.MergedStartCodeSameWaveform := fun _ rs t old =>
  levelAt_mkPulse_units rs t old (by decide)

/-! ### Polarity and pin (R144) -/

/-- A map that takes every symbol's record to that symbol's under another configuration takes the encoding to the encoding. -/
theorem encodeRecords_map {c' : PinConfig} {f : Pulse → Pulse} (h : ∀ l n, f (mkPulse c l n) = mkPulse c' l n)
    (bytes : List Byte) : encodeRecords c' bytes = (encodeRecords c bytes).map f := by
  have hbyte : ∀ b, (byteRecords c b).map f = byteRecords c' b := fun b => by
    simp only [byteRecords, List.map_append, List.map_cons, List.map_map, List.map_nil, Function.comp_def, h]
  simp only [encodeRecords, preambleRecords, List.map_append, List.map_cons, List.map_nil, List.map_flatMap, hbyte, h]

theorem physicalTx_not (l : Logical) (inv : Bool) : physicalTx l (!inv) = !physicalTx l inv :=
  Bool.xor_not _ _

/-- Inverting the polarity exchanges the two masks. -/
theorem mkPulse_invert (c : PinConfig) (l : Logical) (n : Nat) :
    mkPulse { c with invertTx := !c.invertTx } l n =
      { set := (mkPulse c l n).clr, clr := (mkPulse c l n).set, dur := (mkPulse c l n).dur } := by
  cases h : physicalTx l c.invertTx with
  | true => rw [mkPulse_of_high n h, mkPulse_of_low n (by rw [physicalTx_not, h]; rfl)]
  | false => rw [mkPulse_of_low n h, mkPulse_of_high n (by rw [physicalTx_not, h]; rfl)]

/-- Another TX pin puts the bit of the one mask that has one elsewhere. -/
theorem mkPulse_txPin (c : PinConfig) (p : Pin) (l : Logical) (n : Nat) :
    mkPulse { c with txPin := p } l n =
      { set := if (mkPulse c l n).set = 0#32 then 0#32 else pinMask p
        clr := if (mkPulse c l n).clr = 0#32 then 0#32 else pinMask p
        dur := (mkPulse c l n).dur } := by
  cases h : physicalTx l c.invertTx with
  | true =>
    rw [mkPulse_of_high n h, mkPulse_of_high (c := { c with txPin := p }) n h, if_neg (pinMask_ne_zero _), if_pos rfl]
  | false =>
    rw [mkPulse_of_low n h, mkPulse_of_low (c := { c with txPin := p }) n h, if_neg (pinMask_ne_zero _), if_pos rfl]

/-- The logical levels of the preamble and the start code. -/
theorem preambleRecords_levels (c : PinConfig) (old : Bool) :
    ((preambleRecords c).map fun r => recordLevel r c.txPin old ^^ c.invertTx) = [false, true, false, true] := by
  simp only [preambleRecords, List.map_cons, List.map_nil, recordLevel_mkPulse, if_true, physicalTx_xor_invertTx]
  rfl

/-- The first four of a map over the encoding are those of the preamble. -/
theorem take_map_encodeRecords {α : Type} (f : Pulse → α) (c : PinConfig) (bytes : List Byte) :
    ((encodeRecords c bytes).map f).take 4 = (preambleRecords c).map f := by
  rw [encodeRecords, List.map_append, List.take_append_of_le_length (by rfl), List.take_of_length_le (by rfl)]

/-- Settles O14: record by record, each a symbol's. -/
theorem polarityAndPinChangeOnlyMasks : Obligations.PolarityAndPinChangeOnlyMasks := fun c bytes =>
  ⟨(take_map_encodeRecords _ c bytes).trans (preambleRecords_micros c),
    fun old => (take_map_encodeRecords _ c bytes).trans (preambleRecords_levels c old),
    encodeRecords_map (fun l n => (mkPulse_invert c l n).symm) bytes,
    fun p => encodeRecords_map (fun l n => (mkPulse_txPin c p l n).symm) bytes⟩

end Sys2Proof.Machine

/-! SUPPORT. The record of each symbol run as an operation under a configuration (R132 to R139). -/

namespace Sys2Proof.Machine

variable {s : State} {c : PinConfig}

/-- An operation that puts a symbol in PS writes, under a configuration, that symbol's record and nothing else. -/
theorem writesPsRecord_of_putSymbol {i : Instr} {k n : Nat} {l : Logical} (hcfg : s.cfg = some c)
    (h : exec i s = putSymbol k l n s) : WritesPsRecord i k (mkPulse c l n) s :=
  ⟨setPsRecord k (mkPulse c l n) s, h.trans (putSymbol_of_cfg hcfg), readRecord_setPsRecord_same k _ s,
    fun _ => readRecord_setPsRecord_other _ s, rfl⟩

/-- Settles O37: each symbol puts its own level and units at its own index. -/
theorem symbolsWriteTheirRecords : Obligations.SymbolsWriteTheirRecords := by
  intro s c hcfg
  have hput {i : Instr} {k n : Nat} {l : Logical} (h : exec i s = putSymbol k l n s) :
      WritesPsRecord i k (mkPulse c l n) s := writesPsRecord_of_putSymbol hcfg h
  exact ⟨hput rfl, hput rfl, hput rfl, hput rfl, fun i => ⟨hput rfl, hput rfl, fun j => ⟨hput rfl, hput rfl⟩⟩⟩

end Sys2Proof.Machine

/-! SUPPORT. The level of TX while each record of the encoding is held, and after the last one (R175). -/

namespace Sys2Proof.Machine

variable {c : PinConfig} {rs : List Pulse} {r : Pulse}

/-- The next record starts when the hold of record `k` ends. -/
theorem offsetMicros_succ {k : Nat} (hr : rs[k]? = some r) :
    offsetMicros rs (k + 1) = offsetMicros rs k + r.dur.toNat := by
  rw [offsetMicros, List.take_add_one, hr, totalMicros_append]
  rfl

/-- Once the first of two sequences has ended the line follows the second. -/
theorem levelAt_append_of_ended {t : Nat} (p : Pin) (qs : List Pulse) (old : Bool) (hended : totalMicros rs ≤ t) :
    ∃ before, levelAt p (rs ++ qs) t old = levelAt p qs (t - totalMicros rs) before := by
  induction rs generalizing t old with
  | nil => exact ⟨old, rfl⟩
  | cons r rs ih =>
    rw [totalMicros] at hended
    rw [List.cons_append, levelAt, if_neg (by omega), totalMicros, ← Nat.sub_sub]
    exact ih _ (by omega)

/-- A record on its own leaves the line at its level during its hold and from then on. -/
theorem levelAt_singleton (p : Pin) (r : Pulse) (t : Nat) (old : Bool) : levelAt p [r] t old = recordLevel r p old :=
  ite_self _

/-- A symbol's record leaves TX high exactly when it sets the TX line (R93). -/
theorem recordLevel_mkPulse_txPin (l : Logical) (n : Nat) (old : Bool) :
    recordLevel (mkPulse c l n) c.txPin old = decide ((mkPulse c l n).set = pinMask c.txPin) := by
  rw [recordLevel_mkPulse, if_pos rfl]
  cases h : physicalTx l c.invertTx with
  | true => rw [mkPulse_of_high n h, decide_eq_true rfl]
  | false => rw [mkPulse_of_low n h, decide_eq_false (pinMask_ne_zero _).symm]

/-- Every encoding ends in a STOP (R110, R139). -/
theorem encodeRecords_eq_append_stop (c : PinConfig) (bytes : List Byte) :
    ∃ rs, encodeRecords c bytes = rs ++ [mkPulse c .mark 2] := by
  obtain rfl | ⟨init, b, rfl⟩ := List.eq_nil_or_concat' bytes
  · exact ⟨[mkPulse c .space 22, mkPulse c .mark 2, mkPulse c .space 9], rfl⟩
  · refine ⟨encodeRecords c init ++ mkPulse c .space 1 :: (List.range 8).map fun j => mkPulse c (dataLevel b j) 1, ?_⟩
    simp only [encodeRecords, byteRecords, List.flatMap_append, List.flatMap_singleton, List.append_assoc]

/-- After its end an encoding leaves TX at mark. -/
theorem levelAt_encodeRecords_of_ended {t : Nat} (c : PinConfig) (bytes : List Byte) (old : Bool)
    (hended : (35 + 11 * bytes.length) * Config.u ≤ t) :
    levelAt c.txPin (encodeRecords c bytes) t old = !c.invertTx := by
  obtain ⟨rs, hrs⟩ := encodeRecords_eq_append_stop c bytes
  have htotal := totalMicros_encodeRecords c bytes
  rw [hrs, totalMicros_append] at htotal
  obtain ⟨before, hlevel⟩ := levelAt_append_of_ended (t := t) c.txPin [mkPulse c .mark 2] old
    (show totalMicros rs ≤ t by omega)
  rw [hrs, hlevel, levelAt_singleton, recordLevel_mkPulse, if_pos rfl]
  exact Bool.true_xor _

/-- Settles O18: the record held is a symbol's, and the last one is a STOP. -/
theorem txLevelDuringAndAfterFrame : Obligations.TxLevelDuringAndAfterFrame := by
  refine fun c bytes t old => ⟨fun k r hr hstart hend => ?_, levelAt_encodeRecords_of_ended c bytes old⟩
  rw [offsetMicros_succ hr] at hend
  obtain ⟨before, hlevel⟩ := levelAt_of_held c.txPin old hr hstart hend
  obtain ⟨l, n, -, rfl⟩ := mem_encodeRecords (List.mem_of_getElem? hr)
  exact hlevel.trans (recordLevel_mkPulse_txPin l n before)

end Sys2Proof.Machine

/-! SUPPORT. Where the records of a valid pulse memory come from (R78, R174). -/

namespace Sys2Proof.Machine

variable {s t : State}

/-- A pulse memory that is valid holds the encoding of some payload of `n` bytes. -/
def HoldsEncoding (c : PinConfig) (n : Nat) (m : PulseStore) : Prop :=
  m.valid = true → ∃ bytes : List Byte, bytes.length = n ∧ m.entry = encodeRecords c bytes

/-- The two memories apart. -/
theorem framesAreEncodings_iff :
    FramesAreEncodings s ↔ ∀ c ∈ s.cfg, HoldsEncoding c s.tc.n s.ps ∧ HoldsEncoding c s.tc.n s.wave := by
  simp only [FramesAreEncodings, List.forall_mem_cons, List.not_mem_nil, false_imp_iff, implies_true, and_true,
    HoldsEncoding]

/-- Nothing is claimed of a memory that is not valid. -/
theorem holdsEncoding_of_invalid {c : PinConfig} {n : Nat} {m : PulseStore} (h : m.valid = false) :
    HoldsEncoding c n m := fun hv => absurd (h.symm.trans hv) Bool.false_ne_true

theorem framesAreEncodings_of_unconfigured (hcfg : s.cfg = none) : FramesAreEncodings s := fun _ hc =>
  absurd (hcfg.symm.trans hc) (Option.some_ne_none _).symm

theorem framesAreEncodings_of_invalid (hps : s.ps.valid = false) (hwave : s.wave.valid = false) :
    FramesAreEncodings s :=
  framesAreEncodings_iff.2 fun _ _ => ⟨holdsEncoding_of_invalid hps, holdsEncoding_of_invalid hwave⟩

/-- An accepted TRANSMIT puts the encoding of its payload in PS, while WAVE is not valid. -/
theorem framesAreEncodings_accept {c : PinConfig} (n : Nat) (hcfg : s.cfg = some c) (hwave : s.wave.valid = false) :
    FramesAreEncodings (accept c n s) := by
  refine framesAreEncodings_iff.2 fun c' hc' => ⟨fun _ => ?_, holdsEncoding_of_invalid hwave⟩
  obtain rfl : c = c' := Option.some.inj (hcfg.symm.trans hc')
  exact ⟨payload s n, payload_length s n, rfl⟩

/-- A host command writes PS with an encoding, or leaves both memories, or leaves none valid. -/
theorem exec_hostCommand_framesAreEncodings {i : Instr} (hI : Inv s) (hF : FramesAreEncodings s)
    (hgroup : opGroup i = .hostCommand) (h : exec i s = .next t) : FramesAreEncodings t := by
  cases exec_effect h with
  | initConfigured | transmitRejected => exact hF
  | initNoEngine _ _ _ _ hcfg | initRolledBack _ _ _ _ _ _ hcfg | initRolledBackTx _ _ _ _ _ _ hcfg =>
    exact framesAreEncodings_of_unconfigured (by simpa using hcfg)
  | initDone tx en x y env hcfg =>
    obtain ⟨-, -, -, -, hps, -⟩ := (inv_unconfigured_iff hcfg).1 hI
    exact framesAreEncodings_of_invalid hps rfl
  | transmitAccepted n c hcfg hidle =>
    obtain ⟨-, -, -, -, -, -, -, hwave, -⟩ := (inv_idle_iff hidle).1 hI
    exact framesAreEncodings_accept n hcfg hwave
  | close => exact framesAreEncodings_of_unconfigured (by simp)
  | symbol i k r hsym => rw [hsym] at hgroup; cases hgroup
  | _ => cases hgroup

/-- The worker writes WAVE only with the records of a valid PS, at W_SUBMIT. -/
theorem workerStep_framesAreEncodings (hF : FramesAreEncodings s) (h : workerStep s = .next t) :
    FramesAreEncodings t := by
  have hboth := framesAreEncodings_iff.1 hF
  rcases workerStep_eq_next h with ⟨-, _, -, -, rfl⟩ | ⟨-, hps, -, -, rfl⟩ | ⟨-, -, -, rfl⟩ | ⟨-, -, rfl⟩ | ⟨-, -, rfl⟩ |
    ⟨-, _, -, -, rfl⟩ | ⟨-, -, -, rfl⟩ | ⟨-, rfl⟩ | ⟨-, rfl⟩
  · exact hF
  -- W_SUBMIT
  · exact framesAreEncodings_iff.2 fun c hc => ⟨(hboth c hc).1, fun _ => (hboth c hc).1 hps⟩
  · exact hF
  · exact hF
  · exact hF
  · exact hF
  -- W_DELETE
  · exact framesAreEncodings_iff.2 fun c hc => ⟨(hboth c hc).1, holdsEncoding_of_invalid rfl⟩
  -- W_FREE
  · exact framesAreEncodings_iff.2 fun c hc => ⟨holdsEncoding_of_invalid rfl, (hboth c hc).2⟩
  · exact hF

/-- The sequencer writes no memory. -/
theorem seqStep_framesAreEncodings (hF : FramesAreEncodings s) (h : seqStep s = .next t) : FramesAreEncodings t := by
  obtain ⟨hcfg, -, htc, hps, hwave, -⟩ := seqStep_frame h
  rw [FramesAreEncodings, hcfg, htc, hps, hwave]
  exact hF

theorem AgentMove.framesAreEncodings (hmove : AgentMove s t) (hI : Inv s) (hF : FramesAreEncodings s) :
    FramesAreEncodings t := by
  cases hmove with
  | hostCommand i _ hgroup h => exact exec_hostCommand_framesAreEncodings hI hF hgroup h
  | worker _ _ h => exact workerStep_framesAreEncodings hF h
  | sequencer _ _ h => exact seqStep_framesAreEncodings hF h
  | elapse | rest => exact hF

/-- Settles O50: a step is one agent's move. -/
theorem stepKeepsFramesEncodings : Obligations.StepKeepsFramesEncodings := by
  intro s t hI hF h
  obtain ⟨rest, m, hI', hmove⟩ := hI.step_agentMove h
  exact hmove.framesAreEncodings hI' hF

end Sys2Proof.Machine

/-! SUPPORT. The engine primitives and the enable line as operations (R160 to R168, R177): the answer of each when its
requirements hold, and its refusal when they do not. -/

namespace Sys2Proof.Machine

variable {s : State}

/-! ### ENGINE_INIT and ENGINE_TERM (R160, R161) -/

/-- The draw of ENGINE_INIT changes the environment's answers alone. -/
theorem takeEngineAnswer_eq (s : State) : takeEngineAnswer s = { s with env := (takeEngineAnswer s).env } := by
  unfold takeEngineAnswer; split <;> rfl

theorem exec_engineInit_of_down (hdown : s.engUp = false) :
    exec .engineInit s = .next (
      if engineAnswer s then answer .ok (setWaveValid false (setBusy false (setEngUp true (takeEngineAnswer s))))
      else answer .engineErr (takeEngineAnswer s)) := by
  cases hans : engineAnswer s <;> simp [exec, execEngineInit, engineInit, hdown, hans]

theorem exec_engineInit_refused (hup : s.engUp = true) : exec .engineInit s = .refused .engineMisuse := by
  simp [exec, execEngineInit, engineInit, hup]

/-- The answers are listed and used up one a draw (assumption 5). -/
theorem engineAnswer_of_listed {b : Bool} {bs : List Bool} (h : s.env.engineInitOk = b :: bs) :
    engineAnswer s = b ∧ (takeEngineAnswer s).env = { s.env with engineInitOk := bs } := by
  simp only [engineAnswer, takeEngineAnswer, h, and_self]

/-- Settles O25: by the answer drawn. -/
theorem engineInitByAnswer : Obligations.EngineInitByAnswer := by
  refine fun s => ⟨fun hdown hans => ?_, fun hdown hans => ?_, exec_engineInit_refused, fun _ _ => engineAnswer_of_listed⟩
  · rw [exec_engineInit_of_down hdown, if_pos hans, takeEngineAnswer_eq]; rfl
  · rw [exec_engineInit_of_down hdown, if_neg (ne_true_of_eq_false hans), takeEngineAnswer_eq]; rfl

/-- Settles O26: the two branches of ENGINE_TERM. -/
theorem engineTermClearsFlags : Obligations.EngineTermClearsFlags := fun _ =>
  ⟨fun hup => congrArg Host.Outcome.next (if_pos hup),
    fun hdown => congrArg Host.Outcome.next (if_neg (ne_true_of_eq_false hdown))⟩

/-! ### SET_PIN_MODE and WRITE_PIN (R162, R163) -/

theorem exec_setPinMode_of_up {p : Int} (hup : s.engUp = true) :
    exec (.setPinMode p) s = .next (answer (pinAnswer (setPinMode p s).1) (setPinMode p s).2) := if_pos hup

theorem exec_setPinMode_refused (p : Int) (hdown : s.engUp = false) :
    exec (.setPinMode p) s = .refused .engineMisuse := if_neg (ne_true_of_eq_false hdown)

theorem pinOf_of_valid {p : Int} (hp : 0 ≤ p ∧ p < 32) : ∃ q : Pin, pinOf p = some q ∧ p = q.val := by
  obtain ⟨q, hq⟩ := Option.ne_none_iff_exists'.1 fun h => pinOf_eq_none.1 h hp
  exact ⟨q, hq, pinOf_eq_some.1 hq⟩

/-- Settles O27: the three results of SET_PIN_MODE. -/
theorem setPinModeResults : Obligations.SetPinModeResults := by
  intro s pin hup
  rw [exec_setPinMode_of_up hup]
  refine ⟨fun hinvalid => ?_, fun hvalid hans => ?_, fun hvalid hans => ?_⟩
  · rw [setPinMode, pinOf_eq_none.2 hinvalid]; rfl
  · obtain ⟨q, hq, -⟩ := pinOf_of_valid hvalid
    rw [setPinMode, hq, hans]
    rfl
  · obtain ⟨q, hq, rfl⟩ := pinOf_of_valid hvalid
    rw [setPinMode, hq, hans]
    exact ⟨answer .ok (setMode q .output (takePinModeAnswer s)), rfl, by simp [Fin.ext_iff], rfl⟩

theorem drivesOnly_drivePin (p : Pin) (b : Bool) (s : State) : DrivesOnly p b s (drivePin p b s) := fun q =>
  ⟨lineLevel_drivePin s p b q, lineMode_drivePin s p b q⟩

theorem exec_writePin_of_output {p : Pin} (b : Bool) (hup : s.engUp = true) (hmode : lineMode s p = .output) :
    exec (.writePin p.val b) s = .next (answer .ok (drivePin p b s)) :=
  andThen_eq_next.2 ⟨_, writePin_eq_next.2 ⟨p, pinOf_val p, hup, hmode, rfl⟩, rfl⟩

/-- WRITE_PIN is refused when its operand names no line in Output mode, or the engine is down. -/
theorem exec_writePin_refused {p : Int} (b : Bool)
    (h : ∀ q, pinOf p = some q → s.engUp = true → lineMode s q ≠ .output) :
    exec (.writePin p b) s = .refused .engineMisuse := by
  have hwrite : writePin p b s = .refused .engineMisuse := by
    unfold writePin
    cases hp : pinOf p with
    | none => rfl
    | some q => exact if_neg fun ⟨hup, hmode⟩ => h q hp hup hmode
  exact congrArg (andThen · (answer .ok)) hwrite

theorem exec_writePin_refused_of_invalid {p : Int} (b : Bool) (hp : ¬ (0 ≤ p ∧ p < 32)) :
    exec (.writePin p b) s = .refused .engineMisuse :=
  exec_writePin_refused b fun q hq => by simp [pinOf_eq_none.2 hp] at hq

theorem exec_writePin_refused_of_mode {p : Pin} (b : Bool) (hmode : lineMode s p ≠ .output) :
    exec (.writePin p.val b) s = .refused .engineMisuse :=
  exec_writePin_refused b fun _ hq _ => Option.some.inj ((pinOf_val p).symm.trans hq) ▸ hmode

/-- Settles O28: the line driven, and the two refusals. -/
theorem writePinDrivesOneLine : Obligations.WritePinDrivesOneLine := fun s b =>
  ⟨fun p hup hmode => ⟨_, exec_writePin_of_output b hup hmode, drivesOnly_drivePin p b s, rfl⟩,
    fun _ hmode => exec_writePin_refused_of_mode b hmode,
    fun p hp => exec_writePin_refused_of_invalid b (by simpa [Config.validPin] using hp)⟩

/-! ### The waveform (R164 to R169) -/

theorem exec_submitWave_refused
    (h : ¬ (s.ps.valid = true ∧ s.engUp = true ∧ s.wave.valid = false ∧ s.seq.busy = false)) :
    exec .submitWave s = .refused .engineMisuse :=
  congrArg (andThen · (answer .handle)) (if_neg h)

theorem exec_startPlayback_refused (h : ¬ (s.engUp = true ∧ s.wave.valid = true ∧ s.seq.busy = false)) :
    exec .startPlayback s = .refused .engineMisuse := if_neg h

theorem exec_deleteWave_refused (h : ¬ (s.engUp = true ∧ s.wave.valid = true ∧ s.seq.busy = false)) :
    exec .deleteWave s = .refused .engineMisuse := if_neg h

/-- With no waveform, or while playing, what START_PLAYBACK and DELETE_WAVE require does not hold. -/
theorem not_playable (h : s.wave.valid = false ∨ s.seq.busy = true) :
    ¬ (s.engUp = true ∧ s.wave.valid = true ∧ s.seq.busy = false) := by
  rintro ⟨-, hwave, hbusy⟩
  simp [hwave, hbusy] at h

/-- Settles O29: its four requirements. -/
theorem submitWaveCopiesPs : Obligations.SubmitWaveCopiesPs := fun _ =>
  ⟨fun hps hup hwave hbusy => andThen_eq_next.2 ⟨_, submitWave_eq_next.2 ⟨⟨hps, hup, hwave, hbusy⟩, rfl⟩, rfl⟩,
    fun h => exec_submitWave_refused fun ⟨hps, hup, hwave, hbusy⟩ => by simp [hps, hup, hwave, hbusy] at h⟩

/-- Settles O30: its requirements, and their failing. -/
theorem startPlaybackSetsIndex : Obligations.StartPlaybackSetsIndex := fun _ =>
  ⟨fun hup hwave hbusy => startPlayback_eq_next.2 ⟨⟨hup, hwave, hbusy⟩, rfl⟩,
    fun h => exec_startPlayback_refused (not_playable h)⟩

/-- Settles O31: the flag is masked by the engine's. -/
theorem isBusyAnswersFlag : Obligations.IsBusyAnswersFlag := fun s =>
  have hexec : exec .isBusy s = .next { s with callResult := some (.busy (s.engUp && s.seq.busy)) } := rfl
  ⟨fun hup => by rw [hexec, hup, Bool.true_and], fun hdown => by rw [hexec, hdown, Bool.false_and]⟩

/-- Settles O32: its requirements, and their failing. -/
theorem deleteWaveInvalidates : Obligations.DeleteWaveInvalidates := fun _ =>
  ⟨fun hup hwave hbusy => deleteWave_eq_next.2 ⟨⟨hup, hwave, hbusy⟩, rfl⟩,
    fun h => exec_deleteWave_refused (not_playable h)⟩

/-! ### Calls out of order (R177) -/

/-- Without a configuration there is no EN line to write (R190, R191; assumption 12). -/
theorem writeEn_refused (b : Bool) (hcfg : s.cfg = none) : writeEn b s = .refused .engineMisuse := by
  rw [writeEn, hcfg]

/-- An INIT of an unconfigured block with the engine up makes its ENGINE_INIT out of order (assumption 16). -/
theorem exec_init_refused (a b : Int) (x y : Bool) (hcfg : s.cfg = none) (hup : s.engUp = true) :
    exec (.init a b x y) s = .refused .engineMisuse := by
  simp only [exec, execInit, initResult_eq_error.2 ⟨hcfg, hup, rfl⟩]

/-- Settles O33: call by call. -/
theorem callsOutOfOrderRefused : Obligations.CallsOutOfOrderRefused := by
  refine fun s => ⟨fun hdown => ?_, fun hup => ⟨exec_engineInit_refused hup, fun hcfg a b x y =>
      exec_init_refused a b x y hcfg hup⟩, fun p b => exec_writePin_refused_of_invalid b,
    fun p b => exec_writePin_refused_of_mode b, fun h => exec_submitWave_refused ?_,
    fun h => ⟨exec_startPlayback_refused (not_playable h), exec_deleteWave_refused (not_playable h)⟩,
    fun hcfg => ⟨writeEn_refused true hcfg, writeEn_refused false hcfg⟩⟩
  · have hnotUp : s.engUp ≠ true := ne_true_of_eq_false hdown
    exact ⟨fun p => exec_setPinMode_refused p hdown, fun p b => exec_writePin_refused b fun _ _ hup => absurd hup hnotUp,
      exec_submitWave_refused fun ⟨_, hup, _⟩ => hnotUp hup, exec_startPlayback_refused fun ⟨hup, _⟩ => hnotUp hup,
      exec_deleteWave_refused fun ⟨hup, _⟩ => hnotUp hup⟩
  · rintro ⟨hps, -, hwave, hbusy⟩
    simp [hps, hwave, hbusy] at h

end Sys2Proof.Machine

/-! SUPPORT. The pulse forms as operations (R170 to R172), and the step of the sequencer by the record at SEQ.idx (R172,
R173). -/

namespace Sys2Proof.Machine

variable {s : State} {c : PinConfig}

/-! ### The pulse forms -/

/-- A record of one of the two forms on TX, with a duration, is played. -/
theorem playRecord_of_form {r : Pulse} (hcfg : s.cfg = some c) (hdur : r.dur ≠ 0#32)
    (hform : r = { set := pinMask c.txPin, clr := 0, dur := r.dur } ∨
      r = { set := 0, clr := pinMask c.txPin, dur := r.dur }) : playRecord r s = .next (applyRecord r s) := by
  refine playRecord_eq_next.2 ⟨reservedRecord_eq_false.2 ⟨c.txPin, fun g hg => ?_, hdur, hform⟩, rfl⟩
  rw [Option.some.inj (hcfg.symm.trans hg)]

/-- A record that gives one line a level and leaves the others drives that line alone. -/
theorem drivesOnly_applyRecord {r : Pulse} {p : Pin} {b : Bool}
    (h : ∀ q old, recordLevel r q old = if q = p then b else old) (s : State) : DrivesOnly p b s (applyRecord r s) :=
  fun q => ⟨(lineLevel_applyRecord s r q).trans (h q _), lineMode_applyRecord s r q⟩

/-- Settles O35: each form plays its record, which changes the level of TX alone. -/
theorem pulseDrivesTxAndHolds : Obligations.PulseDrivesTxAndHolds := fun s c dur hcfg hdur =>
  ⟨⟨_, playRecord_of_form hcfg hdur (.inl rfl), drivesOnly_applyRecord (recordLevel_hi c.txPin · dur ·) s, rfl⟩,
    ⟨_, playRecord_of_form hcfg hdur (.inr rfl), drivesOnly_applyRecord (recordLevel_lo c.txPin · dur ·) s, rfl⟩⟩

/-! ### The sequencer's step -/

/-- The block by itself, and the sequencer at its turn, take the sequencer's step when it has one. -/
theorem step_of_seqEnabled (hen : seqEnabled s = true) :
    (s.agenda = [] → step s = seqStep s) ∧
    (∀ rest, s.agenda = .sequencer :: rest → step s = seqStep { s with agenda := rest }) := by
  refine ⟨fun hagenda => ?_, fun rest hagenda => ?_⟩
  · rw [step, machineStep, hagenda]; exact if_pos hen
  · rw [step_of_agenda hagenda]; exact if_pos hen

theorem fetchRecord_of_valid (hwave : s.wave.valid = true) : fetchRecord s = s.wave.entry[s.seq.idx]? := if_pos hwave

theorem seqStep_of_decode {r : Pulse} {i : Instr} (hfetch : fetchRecord s = some r) (hdec : decodeRecord r = .ok i) :
    seqStep s = exec i s := by
  rw [seqStep, hfetch]
  simp only [runRecord, hdec]

theorem seqStep_of_end (hwave : s.wave.valid = true) (hend : s.seq.idx = s.wave.entry.length) :
    seqStep s = .next (seqFinish s) :=
  seqStep_eq_next.2 ⟨hwave, .inr ⟨List.getElem?_eq_none hend.ge, rfl⟩⟩

/-- Settles O44: the sequencer has a step, the one of the record fetched or the finish. -/
theorem stepRunsFetchedRecord : Obligations.StepRunsFetchedRecord := by
  refine fun s hbusy hrem hwave => ⟨fun r i hr hdec => ?_, fun hend => ?_⟩
  · have hidx := (List.getElem?_eq_some_iff.1 hr).1
    obtain ⟨hself, hturn⟩ := step_of_seqEnabled (seqEnabled_eq_true.2 ⟨hbusy, hrem, hidx.le⟩)
    have hfetch := (fetchRecord_of_valid hwave).trans hr
    exact ⟨fun h => (hself h).trans (seqStep_of_decode hfetch hdec),
      fun rest h => (hturn rest h).trans (seqStep_of_decode hfetch hdec)⟩
  · obtain ⟨hself, hturn⟩ := step_of_seqEnabled (seqEnabled_eq_true.2 ⟨hbusy, hrem, hend.le⟩)
    exact ⟨fun h => (hself h).trans (seqStep_of_end hwave hend),
      fun rest h => (hturn rest h).trans (seqStep_of_end hwave hend)⟩

end Sys2Proof.Machine

/-! SUPPORT. The enable line (R190 to R195): EN_ENABLE and EN_DISABLE drive EN alone, a record drives TX alone, and the two
are different lines. -/

namespace Sys2Proof.Machine

variable {s t : State} {c : PinConfig}

/-! ### EN_ENABLE and EN_DISABLE (R192) -/

/-- Configured, with the engine up and EN an output, an enable-line operation drives EN. -/
theorem writeEn_of_output (b : Bool) (hcfg : s.cfg = some c) (hup : s.engUp = true)
    (hmode : lineMode s c.enPin = .output) :
    writeEn b s = .next (drivePin c.enPin (physicalEn b c.invertEn) s) :=
  writeEn_eq_next.2 ⟨c, hcfg, hup, hmode, rfl⟩

/-- Settles O34: EN driven to its physical level, for either value of `enabled`. -/
theorem enLineFollowsPolarity : Obligations.EnLineFollowsPolarity := by
  intro s c hcfg hup hmode
  have hdrive (b : Bool) := writeEn_of_output b hcfg hup hmode
  refine ⟨⟨_, (hdrive true).trans ?_, drivesOnly_drivePin c.enPin (!c.invertEn) s, rfl⟩,
    ⟨_, (hdrive false).trans ?_, drivesOnly_drivePin c.enPin c.invertEn s, rfl⟩⟩
  · rw [physicalEn_true]
  · rw [physicalEn_false]

/-! ### EN and TX never share a line (R195) -/

/-- The two pins of a configuration are different lines (R22). -/
theorem Inv.txPin_ne_enPin (hI : Inv s) (hcfg : s.cfg = some c) : c.txPin ≠ c.enPin := by
  obtain ⟨-, hdist, -⟩ := hI
  exact hdist c hcfg

/-- Running a record leaves every line but TX at its level (R170 to R172). -/
theorem runRecord_lineLevel_other {r : Pulse} {p : Pin} (hcfg : s.cfg = some c) (hp : p ≠ c.txPin)
    (h : runRecord r s = .next t) : lineLevel t p = lineLevel s p := by
  obtain ⟨hres, rfl⟩ := runRecord_eq_next.1 h
  rw [lineLevel_applyRecord, recordLevel_other (hcfg ▸ hres) hp]

/-- An enable-line operation leaves every line but EN at its level (R190, R191). -/
theorem writeEn_lineLevel_other {b : Bool} {p : Pin} (hcfg : s.cfg = some c) (hp : p ≠ c.enPin)
    (h : writeEn b s = .next t) : lineLevel t p = lineLevel s p := by
  obtain ⟨c', hcfg', -, -, rfl⟩ := writeEn_eq_next.1 h
  obtain rfl : c = c' := Option.some.inj (hcfg.symm.trans hcfg')
  rw [lineLevel_drivePin, if_neg hp]

/-- INIT compares its two pins as integers, before either is checked, and one number for both takes the engine down again
(R201, R246). -/
theorem initPins_samePin (a : Int) (x y : Bool) (s : State) :
    initPins a a x y s = (.samePinError, engineTerm s) := if_pos rfl

/-- An INIT of an unconfigured block whose engine comes up fails when one number is given for both pins. -/
theorem exec_init_samePin (a : Int) (x y : Bool) (hcfg : s.cfg = none) (hdown : s.engUp = false)
    (hans : engineAnswer s = true) :
    exec (.init a a x y) s =
      .next (respond .init .samePinError
        (engineTerm (setWaveValid false (setBusy false (setEngUp true (takeEngineAnswer s)))))) := by
  have hunconfigured : cfgValid s = false := by rw [cfgValid, hcfg, Option.isSome_none]
  have hengine : engineInit s = .ok (true, setWaveValid false (setBusy false (setEngUp true (takeEngineAnswer s)))) := by
    simp [engineInit, hdown, hans]
  have hresult : initResult a a x y s = .ok (initPins a a x y
      (setWaveValid false (setBusy false (setEngUp true (takeEngineAnswer s))))) := by
    simp only [initResult, hunconfigured, hengine, Bool.false_eq_true, if_true, if_false]
  exact execInit_eq_next.2 ⟨_, hresult, by rw [initPins_samePin]⟩

/-- Settles O53: the pins are different lines by the invariants, and INIT compares them before it sets a mode. -/
theorem enAndTxNeverDisturbEachOther : Obligations.EnAndTxNeverDisturbEachOther := by
  refine ⟨fun s t c hI hcfg => ?_, fun s a x y hcfg hdown hans => ⟨_, exec_init_samePin a x y hcfg hdown hans, ?_, ?_⟩⟩
  · have hne := hI.txPin_ne_enPin hcfg
    exact ⟨fun _ => runRecord_lineLevel_other hcfg hne.symm, fun _ => writeEn_lineLevel_other hcfg hne⟩
  · simpa using hcfg
  · simp

end Sys2Proof.Machine

/-! SUPPORT. The worker's steps from a state with the invariants: each completes, with the effect written out (R216 to R222,
R224, R298). -/

namespace Sys2Proof.Machine

variable {s : State} {c : PinConfig}

/-! ### What the invariants give the worker -/

/-- A configured block has its engine up and its EN line an output (R45 a and f). -/
theorem Inv.engine_and_en_ready (hI : Inv s) (hcfg : s.cfg = some c) :
    s.engUp = true ∧ lineMode s c.enPin = .output := by
  obtain ⟨hmirror, -, -, -, -, -, hout, -⟩ := hI
  exact ⟨hmirror.trans (by rw [cfgValid, hcfg, Option.isSome_some]), (hout c hcfg).2⟩

/-- In flight the engine is up, and the worker's position says which pulse memory is valid (R45 a, b, d and e). -/
theorem Inv.flags_inflight (hI : Inv s) (hinfl : s.tc.inflight = true) :
    s.engUp = true ∧ s.wave.valid = waveHeld s ∧ s.ps.valid = (s.tc.wstep != .wDone) := by
  obtain ⟨hmirror, -, hconf, -, hwave, hps, -⟩ := hI
  exact ⟨hmirror.trans (hconf hinfl), hwave, hps.trans (by rw [hinfl, Bool.true_and])⟩

/-! ### The eight steps -/

section
variable (hI : Inv s) (hcfg : s.cfg = some c)
include hI hcfg

theorem workerStep_wEnable (hw : s.tc.wstep = .wEnable) :
    workerStep s = .next (setWstep .wSubmit (drivePin c.enPin (!c.invertEn) s)) := by
  obtain ⟨hup, hmode⟩ := hI.engine_and_en_ready hcfg
  rw [← physicalEn_true]
  simp only [workerStep, hw, workEnable, writeEn_of_output true hcfg hup hmode, andThen_next]

theorem workerStep_wDisable (hw : s.tc.wstep = .wDisable) :
    workerStep s = .next (setWstep .wDelete (drivePin c.enPin c.invertEn s)) := by
  obtain ⟨hup, hmode⟩ := hI.engine_and_en_ready hcfg
  simp only [workerStep, hw, workDisable, writeEn_of_output false hcfg hup hmode, andThen_next, physicalEn_false]

end

section
variable (hI : Inv s) (hinfl : s.tc.inflight = true)
include hI hinfl

theorem workerStep_wSubmit (hw : s.tc.wstep = .wSubmit) :
    workerStep s = .next (setWstep .wStart { s with wave := { valid := true, entry := s.ps.entry } }) := by
  obtain ⟨hup, hwave, hps⟩ := hI.flags_inflight hinfl
  have hsubmit := submitWave_eq_next.2 ⟨⟨hps.trans (by rw [hw]; rfl), hup, hwave.trans (by simp [waveHeld, hw]),
    hI.not_busy (by simp [hw])⟩, rfl⟩
  simp only [workerStep, hw, workSubmit, hsubmit, andThen_next]

theorem workerStep_wStart (hw : s.tc.wstep = .wStart) :
    workerStep s = .next
      (setWstep .wWait (setLook (Config.w0 s.tc.n) { s with seq := { s.seq with idx := 0, busy := true } })) := by
  obtain ⟨hup, hwave, -⟩ := hI.flags_inflight hinfl
  have hstart := startPlayback_eq_next.2 ⟨⟨hup, hwave.trans (by simp [waveHeld, hinfl, hw]),
    hI.not_busy (by simp [hw])⟩, rfl⟩
  simp only [workerStep, hw, workStart, hstart, andThen_next]

theorem workerStep_wDelete (hw : s.tc.wstep = .wDelete) :
    workerStep s = .next (setWstep .wFree (setWaveValid false s)) := by
  obtain ⟨hup, hwave, -⟩ := hI.flags_inflight hinfl
  have hdelete := deleteWave_eq_next.2 ⟨⟨hup, hwave.trans (by simp [waveHeld, hinfl, hw]),
    hI.not_busy (by simp [hw])⟩, rfl⟩
  simp only [workerStep, hw, workDelete, hdelete, andThen_next]

/-- A look that finds the engine busy (R298; assumption 18). -/
theorem workerStep_wWait_busy (hw : s.tc.wstep = .wWait) (hbusy : s.seq.busy = true) :
    workerStep s = .next (setLook Config.q s) := by
  obtain ⟨hup, -⟩ := hI.flags_inflight hinfl
  simp [workerStep, hw, workWait, isBusy, hup, hbusy]

end

/-- A look that finds the engine idle is W_WAIT (R219). -/
theorem workerStep_wWait_idle (hw : s.tc.wstep = .wWait) (hbusy : s.seq.busy = false) :
    workerStep s = .next (setWstep .wDisable s) := by
  simp [workerStep, hw, workWait, isBusy, hbusy]

theorem workerStep_wFree (hw : s.tc.wstep = .wFree) : workerStep s = .next (setWstep .wDone (setPsValid false s)) := by
  simp only [workerStep, hw, workFree]

theorem workerStep_wDone (hw : s.tc.wstep = .wDone) : workerStep s = .next (emit .done (setInflight false s)) := by
  simp only [workerStep, hw, workDone]

/-! ### The worker's turn -/

/-- In flight the worker has a step, at W_WAIT once the detector's timer has run out. -/
theorem workerEnabled_of_inflight (hinfl : s.tc.inflight = true) (hready : s.tc.wstep = .wWait → s.tc.look = 0) :
    workerEnabled s = true := by
  by_cases hw : s.tc.wstep = .wWait
  · simp [workerEnabled, hinfl, hready hw]
  · simp [workerEnabled, hinfl, hw]

/-- The worker's turn is its step when it has one. -/
theorem step_of_workerTurn {rest : List Turn} (hagenda : s.agenda = .worker :: rest) (hinfl : s.tc.inflight = true)
    (hready : s.tc.wstep = .wWait → s.tc.look = 0) : step s = workerStep { s with agenda := rest } := by
  have hen : workerEnabled { s with agenda := rest } = true := workerEnabled_of_inflight hinfl hready
  exact (step_of_agenda hagenda).trans (if_pos hen)

/-- Settles O45: the worker's turn is its step, which the invariants let complete. -/
theorem workerStepEffects : Obligations.WorkerStepEffects := by
  intro s c rest hI hinfl hcfg hagenda
  have hI' : Inv { s with agenda := rest } := hI.with_agenda (hI.external_of_agenda hagenda).2
  have hturn (hready : s.tc.wstep = .wWait → s.tc.look = 0) := step_of_workerTurn hagenda hinfl hready
  have hnotWait {w : WorkerStep} (hw : s.tc.wstep = w) (hne : w ≠ .wWait := by decide) :
      step s = workerStep { s with agenda := rest } := hturn fun h => absurd (hw.symm.trans h) hne
  have hdrives (b : Bool) : DrivesOnly c.enPin b s (drivePin c.enPin b { s with agenda := rest }) :=
    drivesOnly_drivePin c.enPin b { s with agenda := rest }
  refine ⟨fun hw => ⟨_, (hnotWait hw).trans (workerStep_wEnable hI' hcfg hw), hdrives _, rfl⟩,
    fun hw => (hnotWait hw).trans (workerStep_wSubmit hI' hinfl hw),
    fun hw => (hnotWait hw).trans (workerStep_wStart hI' hinfl hw),
    fun hw hlook hbusy => (hturn fun _ => hlook).trans (workerStep_wWait_idle hw hbusy),
    fun hw hlook hbusy => (hturn fun _ => hlook).trans (workerStep_wWait_busy hI' hinfl hw hbusy),
    fun hw => ⟨_, (hnotWait hw).trans (workerStep_wDisable hI' hcfg hw), hdrives _, rfl⟩,
    fun hw => (hnotWait hw).trans (workerStep_wDelete hI' hinfl hw),
    fun hw => (hnotWait hw).trans (workerStep_wFree hw),
    fun hw => (hnotWait hw).trans (workerStep_wDone hw)⟩

end Sys2Proof.Machine

/-! SUPPORT. TRANSMIT and CLOSE by the condition of the block (R210, R230, R231, R233, R242). -/

namespace Sys2Proof.Machine

variable {s t : State} {c : PinConfig}

/-! ### TRANSMIT (R210) -/

theorem exec_transmit_of_unconfigured (n : Nat) (hcfg : s.cfg = none) :
    exec (.transmit n) s = .next (raise .transmit .notInitialized s) := by
  simp only [exec, execTransmit, hcfg]

theorem exec_transmit_of_inflight (n : Nat) (hcfg : s.cfg = some c) (hinfl : s.tc.inflight = true) :
    exec (.transmit n) s = .next (raise .transmit .busy s) := by
  simp only [exec, execTransmit, hcfg, hinfl, if_true]

theorem exec_transmit_of_idle (n : Nat) (hcfg : s.cfg = some c) (hidle : s.tc.inflight = false) :
    exec (.transmit n) s =
      if payloadFits n then .next (respond .transmit .ok (accept c n s)) else .refused .payloadTooLong := by
  simp only [exec, execTransmit, hcfg, hidle, Bool.false_eq_true, if_false]

/-- Settles O22: the branches of TRANSMIT. -/
theorem transmitByCondition : Obligations.TransmitByCondition := fun _ n =>
  ⟨exec_transmit_of_unconfigured n, fun _ hcfg =>
    ⟨exec_transmit_of_inflight n hcfg,
      fun hidle hfits => (exec_transmit_of_idle n hcfg hidle).trans (if_neg (ne_true_of_eq_false hfits)),
      fun hidle hfits => (exec_transmit_of_idle n hcfg hidle).trans (if_pos hfits)⟩⟩

/-! ### CLOSE (R230) -/

theorem exec_close_of_inflight (hinfl : s.tc.inflight = true) : exec .close s = .fault .closeInFlight := if_pos hinfl

theorem exec_close_of_idle (hidle : s.tc.inflight = false) :
    exec .close s = .next (respond .close .ok (engineTerm { s with cfg := none })) :=
  execClose_eq_next.2 ⟨hidle, rfl⟩

theorem engineTerm_of_up (hup : s.engUp = true) :
    engineTerm s = setWaveValid false (setBusy false (setEngUp false s)) := if_pos hup

theorem engineTerm_of_down (hdown : s.engUp = false) : engineTerm s = s := if_neg (ne_true_of_eq_false hdown)

/-- With the engine down CLOSE takes the configuration away and nothing else. -/
theorem exec_close_of_down (hidle : s.tc.inflight = false) (hdown : s.engUp = false) :
    exec .close s = .next (respond .close .ok { s with cfg := none }) := by
  rw [exec_close_of_idle hidle, engineTerm_of_down (s := { s with cfg := none }) hdown]

/-- CLOSE changes nothing in an unconfigured block (R231). -/
theorem exec_close_of_unconfigured (hidle : s.tc.inflight = false) (hdown : s.engUp = false) (hcfg : s.cfg = none) :
    exec .close s = .next (respond .close .ok s) := by
  rw [exec_close_of_down hidle hdown, ← hcfg]

/-- Settles O23: the two branches of CLOSE and of its ENGINE_TERM; after one CLOSE a second finds the block unconfigured. -/
theorem closeByCondition : Obligations.CloseByCondition := by
  refine ⟨fun s => exec_close_of_inflight, fun s hidle hup => ?_, fun s => exec_close_of_down,
    fun s => exec_close_of_unconfigured, fun s t h => ?_⟩
  · rw [exec_close_of_idle hidle, engineTerm_of_up (s := { s with cfg := none }) hup]
    rfl
  · obtain ⟨hidle, rfl⟩ := execClose_eq_next.1 h
    exact exec_close_of_unconfigured (by simpa using hidle) (by simp) (by simp)

end Sys2Proof.Machine

/-! SUPPORT. INIT by the environment's answers, and what a failed INIT leaves (R201 to R203, R241, R251). -/

namespace Sys2Proof.Machine

variable {s t : State} {c : PinConfig}

theorem exec_init_of_configured (a b : Int) (x y : Bool) (hcfg : s.cfg ≠ none) :
    exec (.init a b x y) s = .next (respond .init .alreadyInitialized s) :=
  execInit_eq_next.2 ⟨_, if_pos (Option.isSome_iff_ne_none.2 hcfg), rfl⟩

/-! ### The engine brought up and taken down again -/

theorem setEngUp_of_eq {b : Bool} (h : s.engUp = b) : setEngUp b s = s := by rw [← h]; rfl

theorem setBusy_of_eq {b : Bool} (h : s.seq.busy = b) : setBusy b s = s := by rw [← h]; rfl

theorem setWaveValid_of_eq {b : Bool} (h : s.wave.valid = b) : setWaveValid b s = s := by rw [← h]; rfl

/-- With nothing playing and no waveform a roll-back takes back just what ENGINE_INIT wrote (R251). -/
theorem engineTerm_setEngUp (hdown : s.engUp = false) (hbusy : s.seq.busy = false) (hwave : s.wave.valid = false) :
    engineTerm (setEngUp true s) = s := by
  have hup : setEngUp false (setEngUp true s) = s := setEngUp_of_eq hdown
  rw [engineTerm_of_up rfl, hup, setBusy_of_eq hbusy, setWaveValid_of_eq hwave]

/-- ENGINE_INIT answered well, with nothing playing and no waveform. -/
theorem engineInit_of_answered {es : List Bool} (hdown : s.engUp = false) (hbusy : s.seq.busy = false)
    (hwave : s.wave.valid = false) (hes : s.env.engineInitOk = true :: es) :
    engineInit s = .ok (true, setEngUp true { s with env := { s.env with engineInitOk := es } }) := by
  obtain ⟨hans, henv⟩ := engineAnswer_of_listed hes
  have hcleared : setWaveValid false (setBusy false (setEngUp true (takeEngineAnswer s))) =
      setEngUp true (takeEngineAnswer s) := by
    rw [setBusy_of_eq (by simpa using hbusy), setWaveValid_of_eq (by simpa using hwave)]
  rw [← henv, ← takeEngineAnswer_eq, engineInit, hdown, hans, hcleared]
  rfl

/-- INIT of an unconfigured block whose engine comes up is the work on its pins. -/
theorem exec_init_of_pins {s' u : State} {a b : Int} {x y : Bool} {e : Code} (hcfg : s.cfg = none)
    (hengine : engineInit s = .ok (true, s')) (hpins : initPins a b x y s' = (e, u)) :
    exec (.init a b x y) s = .next (respond .init e u) := by
  refine execInit_eq_next.2 ⟨(e, u), ?_, rfl⟩
  simp only [initResult, cfgValid, hcfg, hengine, hpins, Option.isSome_none, Bool.false_eq_true, if_true, if_false]

/-! ### A successful INIT (R202) -/

/-- A pin whose mode the platform can set is made an output. -/
theorem initPin_of_answered {ps : List Bool} (p : Pin) (hps : s.env.pinModeOk = true :: ps) :
    initPin p.val s = (.ok p, setMode p .output { s with env := { s.env with pinModeOk := ps } }) := by
  simp [initPin, setPinMode, pinModeAnswer, takePinModeAnswer, hps]

/-- Two different pins whose modes the platform can set are made outputs, and the block is configured. -/
theorem initPins_of_answered {tx en : Pin} {ps : List Bool} (x y : Bool) (hne : tx ≠ en)
    (hps : s.env.pinModeOk = true :: true :: ps) :
    initPins tx.val en.val x y s = (.ok, configure tx en x y
      (setMode en .output (setMode tx .output { s with env := { s.env with pinModeOk := ps } }))) := by
  have hval : (tx.val : Int) ≠ en.val := by simpa [Fin.ext_iff] using hne
  have hen := initPin_of_answered (s := setMode tx .output { s with env := { s.env with pinModeOk := true :: ps } }) en rfl
  simp only [initPins, hval, if_false, initPin_of_answered tx hps, hen]
  rfl

/-- INIT of an unconfigured block, everything answering well. -/
theorem exec_init_of_answered {tx en : Pin} {es ps : List Bool} (x y : Bool) (hcfg : s.cfg = none)
    (hdown : s.engUp = false) (hbusy : s.seq.busy = false) (hwave : s.wave.valid = false) (hne : tx ≠ en)
    (hes : s.env.engineInitOk = true :: es) (hps : s.env.pinModeOk = true :: true :: ps) :
    exec (.init tx.val en.val x y) s = .next (respond .init .ok (configure tx en x y (setMode en .output (setMode tx .output
      (setEngUp true { s with env := { s.env with engineInitOk := es, pinModeOk := ps } }))))) :=
  exec_init_of_pins hcfg (engineInit_of_answered hdown hbusy hwave hes) (initPins_of_answered x y hne hps)

/-- Settles O19: the state INIT answers, field by field. -/
theorem initConfiguresTheBlock : Obligations.InitConfiguresTheBlock := by
  intro s tx en x y es ps hI hcfg hne hes hps
  obtain ⟨hdown, hidle, hbusy, -, hpsv, hwave, -⟩ := (inv_unconfigured_iff hcfg).1 hI
  refine ⟨_, exec_init_of_answered x y hcfg hdown hbusy hwave hne hes hps, rfl, rfl, fun p => ?_, fun p => ?_, hidle, hbusy,
    hpsv, hwave, ?_⟩
  · by_cases htx : p = tx <;> by_cases hen : p = en <;> simp [htx, hen]
  · simp
  · simp [respond, emit, configure, drivePin, setLevel, setMode, setEngUp]

/-! ### A failed INIT (R203) -/

/-- The flags of an idle block follow from its configuration. -/
theorem Inv.flags_idle (hI : Inv s) (hidle : s.tc.inflight = false) :
    flags s = { cfgValid := cfgValid s, engUp := cfgValid s, inflight := false, busy := false, psValid := false,
                waveValid := false } := by
  obtain ⟨hmirror, -, -, -, hbusy, -, hps, hwave, -⟩ := (inv_idle_iff hidle).1 hI
  simp only [flags, hmirror, hidle, hbusy, hps, hwave]

/-- An INIT that leaves the block unconfigured changes the environment's answers, its response apart, or also the mode of the
TX pin. -/
theorem exec_init_failed {a b : Int} {x y : Bool} (h : exec (.init a b x y) s = .next t) (hcfg : s.cfg = none)
    (hbusy : s.seq.busy = false) (hwave : s.wave.valid = false) (hfail : t.cfg = none) :
    ∃ e env, e ≠ .ok ∧ (t = respond .init e { s with env := env } ∨
      ∃ tx : Pin, a = tx.val ∧ t = respond .init e (setMode tx .output { s with env := env })) := by
  cases exec_effect h with
  | initConfigured _ _ _ _ hconf => exact absurd hcfg hconf
  | initNoEngine => exact ⟨.hardwareInitFailed, _, by decide, .inl (congrArg _ (takeEngineAnswer_eq s))⟩
  | initRolledBack _ _ _ _ e env _ hdown herr =>
    exact ⟨e, env, herr, .inl (congrArg _ (engineTerm_setEngUp (s := { s with env := env }) hdown hbusy hwave))⟩
  | initRolledBackTx tx _ _ _ e env _ hdown herr =>
    exact ⟨e, env, herr, .inr ⟨tx, rfl, congrArg _
      (engineTerm_setEngUp (s := setMode tx .output { s with env := env }) hdown hbusy hwave)⟩⟩
  | initDone => simp at hfail
  | symbol _ _ _ hsym => cases hsym

/-- One number for both pins, once the engine is up: the roll-back leaves the state before ENGINE_INIT's writes. -/
theorem initPins_samePin_of_cleared (a : Int) (x y : Bool) (hdown : s.engUp = false) (hbusy : s.seq.busy = false)
    (hwave : s.wave.valid = false) : initPins a a x y (setEngUp true s) = (.samePinError, s) := by
  rw [initPins_samePin, engineTerm_setEngUp hdown hbusy hwave]

/-- Settles O21: the failed INIT by its two effects; in the example the roll-back leaves the state the second INIT needs. -/
theorem failedInitLeavesBlockAsItWas : Obligations.FailedInitLeavesBlockAsItWas := by
  refine fun s a b x y hI => ⟨exec_init_of_configured a b x y, fun hcfg t h hfail => ?_, fun es ps hcfg hes hps => ?_⟩
  · have hIt := exec_hostCommand_inv hI rfl h
    obtain ⟨hdown, hidle, -⟩ := (inv_unconfigured_iff hfail).1 hIt
    have hflags : flags t = flags State.reset := (hIt.flags_idle hidle).trans (by rw [cfgValid, hfail]; rfl)
    obtain ⟨-, -, hbusy, -, -, hwave, -⟩ := (inv_unconfigured_iff hcfg).1 hI
    obtain ⟨e, env, herr, rfl | ⟨tx, rfl, rfl⟩⟩ := exec_init_failed h hcfg hbusy hwave hfail
    · exact ⟨hdown, hflags, by simp, by simp, e, herr, rfl⟩
    · refine ⟨hdown, hflags, by simp, fun p => ?_, e, herr, rfl⟩
      by_cases hp : p = tx <;> simp [hp]
  · obtain ⟨hdown, -, hbusy, -, -, hwave, -⟩ := (inv_unconfigured_iff hcfg).1 hI
    exact ⟨_, _, exec_init_of_pins hcfg (engineInit_of_answered hdown hbusy hwave hes)
        (initPins_samePin_of_cleared 5 false false hdown hbusy hwave), hcfg, rfl,
      exec_init_of_answered (tx := 5) (en := 6) false false hcfg hdown hbusy hwave (by decide) rfl hps, rfl, by simp⟩

end Sys2Proof.Machine

/-! SUPPORT. Every command in every condition (R200, R212, R223, R234). -/

namespace Sys2Proof.Machine

variable {s t : State} {c : PinConfig}

/-! ### The condition of a state (R200) -/

theorem condition_eq_unconfigured : condition s = .unconfigured ↔ s.tc.inflight = false ∧ s.cfg = none := by
  cases h : s.tc.inflight <;> cases h' : s.cfg <;> simp [condition, cfgValid, h, h']

theorem condition_eq_configuredIdle : condition s = .configuredIdle ↔ s.tc.inflight = false ∧ s.cfg ≠ none := by
  cases h : s.tc.inflight <;> cases h' : s.cfg <;> simp [condition, cfgValid, h, h']

theorem condition_eq_inFlight : condition s = .inFlight ↔ s.tc.inflight = true := by
  cases h : s.tc.inflight <;> cases h' : s.cfg <;> simp [condition, cfgValid, h, h']

/-! ### The results of INIT (R240) -/

theorem initPin_code {p : Int} {e : Code} {u : State} (h : initPin p s = (.error e, u)) :
    e ∈ [Code.invalidPinError, .pinModeError] := by
  unfold initPin at h
  split at h
  · simp at h
  · next err _ _ =>
    obtain rfl : pinCode err = e := by simpa using congrArg Prod.fst h
    cases err <;> simp [pinCode]

/-- The results of INIT's work on its pins. -/
theorem initPins_code (a b : Int) (x y : Bool) (s : State) :
    (initPins a b x y s).1 ∈ [Code.ok, .samePinError, .invalidPinError, .pinModeError] := by
  have hpin {p : Int} {e : Code} {s u : State} (h : initPin p s = (.error e, u)) :
      e ∈ [Code.ok, .samePinError, .invalidPinError, .pinModeError] :=
    List.mem_cons_of_mem _ (List.mem_cons_of_mem _ (initPin_code h))
  unfold initPins
  split
  · simp
  · split
    · next h => exact hpin h
    · split
      · next h => exact hpin h
      · simp

/-- The results of an INIT of an unconfigured block. -/
theorem initResult_code {a b : Int} {x y : Bool} {r : Code × State} (hcfg : s.cfg = none)
    (h : initResult a b x y s = .ok r) :
    r.1 ∈ [Code.ok, .hardwareInitFailed, .samePinError, .invalidPinError, .pinModeError] := by
  simp only [initResult, cfgValid, hcfg, Option.isSome_none, Bool.false_eq_true, if_false] at h
  rcases engineInit_cases (s := s) with ⟨-, he⟩ | ⟨-, -, he⟩ | ⟨-, -, he⟩ <;> rw [he] at h <;> cases h
  · exact (List.Sublist.subset (by decide)) (initPins_code a b x y _)
  · exact List.mem_cons_of_mem _ List.mem_cons_self

/-- The error of an INIT of an unconfigured block, read from its response. -/
theorem exec_init_error {a b : Int} {x y : Bool} {e : Code} (hcfg : s.cfg = none)
    (h : exec (.init a b x y) s = .next t) (hresp : t.trace.getLast? = some (.resp .init e)) (herr : e ≠ .ok) :
    e ∈ [Code.hardwareInitFailed, .samePinError, .invalidPinError, .pinModeError] := by
  obtain ⟨r, hr, rfl⟩ := execInit_eq_next.1 h
  obtain rfl : r.1 = e := by simpa using hresp
  exact (List.mem_cons.1 (initResult_code hcfg hr)).resolve_left herr

/-- With the engine down INIT answers a next state. -/
theorem exec_init_answers (a b : Int) (x y : Bool) (hdown : s.engUp = false) : ∃ t, exec (.init a b x y) s = .next t := by
  cases hr : initResult a b x y s with
  | ok r => exact ⟨_, execInit_eq_next.2 ⟨r, hr, rfl⟩⟩
  | error r =>
    obtain ⟨-, hup, -⟩ := initResult_eq_error.1 hr
    simp [hdown] at hup

/-! ### The table (R234) -/

/-- The row of INIT in an unconfigured block. -/
theorem exec_init_unconfigured (a b : Int) (x y : Bool) (hI : Inv s) (hcfg : s.cfg = none) :
    ∃ t es code, exec (.init a b x y) s = .next t ∧ t.trace = s.trace ++ es ++ [.resp .init code] ∧
      ((code = .ok ∧ condition t = .configuredIdle) ∨
       (code ∈ [.hardwareInitFailed, .samePinError, .invalidPinError, .pinModeError] ∧ condition t = .unconfigured)) := by
  obtain ⟨hdown, hidle, -⟩ := (inv_unconfigured_iff hcfg).1 hI
  obtain ⟨t, h⟩ := exec_init_answers a b x y hdown
  have herror {e : Code} (hresp : t.trace.getLast? = some (.resp .init e)) := exec_init_error hcfg h hresp
  have hunconfigured {u : State} (htc : u.tc = s.tc) (hu : u.cfg = none) : condition u = .unconfigured :=
    condition_eq_unconfigured.2 ⟨by rw [htc, hidle], hu⟩
  cases exec_effect h with
  | initConfigured _ _ _ _ hconf => exact absurd hcfg hconf
  | initNoEngine =>
    exact ⟨_, [], .hardwareInitFailed, h, by simp,
      .inr ⟨herror (by simp) (by decide), hunconfigured (by simp) (by simpa using hcfg)⟩⟩
  | initRolledBack _ _ _ _ e _ _ _ herr | initRolledBackTx _ _ _ _ e _ _ _ herr =>
    exact ⟨_, [], e, h, by simp, .inr ⟨herror (by simp) herr, hunconfigured (by simp) (by simpa using hcfg)⟩⟩
  | initDone _ en _ _ =>
    exact ⟨_, [.pin en y], .ok, h, by simp, .inl ⟨rfl, condition_eq_configuredIdle.2 ⟨hidle, by simp⟩⟩⟩
  | symbol _ _ _ hsym => cases hsym

/-- A transmission in flight has a configuration (R45 b). -/
theorem Inv.cfg_of_inflight (hI : Inv s) (hinfl : s.tc.inflight = true) : ∃ c, s.cfg = some c := by
  obtain ⟨-, -, hconf, -⟩ := hI
  exact Option.isSome_iff_exists.1 (hconf hinfl)

/-- Settles O24: the commands by the condition, and the worker's last step. -/
theorem commandConditionTable : Obligations.CommandConditionTable := by
  refine fun s hI => ⟨fun hcond => ?_, fun hcond => ?_, fun hcond => ?_⟩
  · obtain ⟨hidle, hcfg⟩ := condition_eq_unconfigured.1 hcond
    obtain ⟨hdown, -⟩ := (inv_unconfigured_iff hcfg).1 hI
    exact ⟨fun a b x y => exec_init_unconfigured a b x y hI hcfg, fun n => exec_transmit_of_unconfigured n hcfg,
      exec_close_of_unconfigured hidle hdown hcfg⟩
  · obtain ⟨hidle, hconf⟩ := condition_eq_configuredIdle.1 hcond
    obtain ⟨c, hcfg⟩ := Option.ne_none_iff_exists'.1 hconf
    refine ⟨fun a b x y => exec_init_of_configured a b x y hconf, fun n => ⟨fun hfits => ?_, fun hfits => ?_⟩, ?_⟩
    · exact (exec_transmit_of_idle n hcfg hidle).trans (if_neg (ne_true_of_eq_false hfits))
    · exact ⟨_, (exec_transmit_of_idle n hcfg hidle).trans (if_pos hfits), condition_eq_inFlight.2 rfl, rfl⟩
    · exact ⟨_, exec_close_of_idle hidle, condition_eq_unconfigured.2 ⟨by simpa using hidle, by simp⟩, by simp⟩
  · have hinfl := condition_eq_inFlight.1 hcond
    obtain ⟨c, hcfg⟩ := hI.cfg_of_inflight hinfl
    have hconf : s.cfg ≠ none := Option.ne_none_iff_exists'.2 ⟨c, hcfg⟩
    refine ⟨fun a b x y => exec_init_of_configured a b x y hconf, fun n => exec_transmit_of_inflight n hcfg hinfl,
      exec_close_of_inflight hinfl, fun hw rest hagenda => ?_⟩
    have hturn := step_of_workerTurn hagenda hinfl fun h => absurd (hw.symm.trans h) (by decide)
    exact ⟨_, hturn.trans (workerStep_wDone hw), condition_eq_configuredIdle.2 ⟨rfl, hconf⟩, rfl⟩

/-! ### In flight (R212, R223) -/

/-- Of the three commands INIT and TRANSMIT are rejected in flight, and CLOSE is not answered. -/
theorem exec_hostCommand_rejected {i : Instr} (hcfg : s.cfg = some c) (hinfl : s.tc.inflight = true)
    (hgroup : opGroup i = .hostCommand) (h : exec i s = .next t) :
    ∃ e, (e = .resp .init .alreadyInitialized ∨ e = .resp .transmit .busy) ∧ t = emit e s := by
  cases i with
  | init a b x y =>
    rw [exec_init_of_configured a b x y (by simp [hcfg])] at h
    exact ⟨_, .inl rfl, (Host.Outcome.next.inj h).symm⟩
  | transmit n =>
    rw [exec_transmit_of_inflight n hcfg hinfl] at h
    exact ⟨_, .inr rfl, (Host.Outcome.next.inj h).symm⟩
  | close => rw [exec_close_of_inflight hinfl] at h; cases h
  | _ => cases hgroup

/-- Settles O56: the host's turn runs a host command, the bytes it brings standing in BUF. -/
theorem commandsInFlightOnlyRejected : Obligations.CommandsInFlightOnlyRejected := by
  intro s t w bytes rest hI hinfl hagenda h
  obtain ⟨c, hcfg⟩ := hI.cfg_of_inflight hinfl
  rw [step_of_agenda hagenda] at h
  obtain ⟨i, hdec, hexec⟩ := runRaw_eq_next.1 h
  exact exec_hostCommand_rejected (s := { s with agenda := rest, buf := Memory.place s.buf 0 bytes }) hcfg hinfl
    (opGroup_of_decode_cmd hdec) hexec

end Sys2Proof.Machine

/-! SUPPORT. Runs of the block by itself, with no turn listed (assumptions 2 and 23): the states a run passes through, and what
the block by itself leaves alone. -/

namespace Sys2Proof.Machine

variable {s t u : State}

/-! ### Runs -/

/-- Some number of steps leads from `s` to `t`. -/
def Reaches (s t : State) : Prop := ∃ k, Sys2Proof.core.run k s = .next t

theorem Reaches.refl (s : State) : Reaches s s := ⟨0, rfl⟩

/-- A run of some steps is one step and then a shorter run. -/
theorem run_succ_eq_next {k : Nat} :
    Sys2Proof.core.run (k + 1) s = .next t ↔ ∃ m, step s = .next m ∧ Sys2Proof.core.run k m = .next t := by
  have hstep : Sys2Proof.core.step s = step s := rfl
  simp only [Host.Core.run, hstep]
  cases step s <;> simp

/-- One step and then a run. -/
theorem Reaches.head (h : step s = .next t) (hrun : Reaches t u) : Reaches s u := by
  obtain ⟨k, hk⟩ := hrun
  exact ⟨k + 1, run_succ_eq_next.2 ⟨t, h, hk⟩⟩

theorem Reaches.single (h : step s = .next t) : Reaches s t := .head h (.refl t)

/-- What every step keeps, a run keeps. -/
theorem Reaches.keeps {P : State → Prop} (hstep : ∀ s t, P s → step s = .next t → P t) (h : Reaches s t) (hs : P s) :
    P t := by
  obtain ⟨k, hk⟩ := h
  induction k generalizing s with
  | zero => cases hk; exact hs
  | succ k ih =>
    obtain ⟨m, hm, hk⟩ := run_succ_eq_next.1 hk
    exact ih (hstep s m hs hm) hk

theorem Reaches.trans (h : Reaches s t) (h' : Reaches t u) : Reaches s u := by
  obtain ⟨k, hk⟩ := h
  induction k generalizing s with
  | zero => cases hk; exact h'
  | succ k ih =>
    obtain ⟨m, hm, hk⟩ := run_succ_eq_next.1 hk
    exact .head hm (ih hk)

/-- The invariants hold of every state a run passes through. -/
theorem Reaches.inv (h : Reaches s t) (hI : Inv s) : Inv t := h.keeps stepKeepsInvariants hI

/-! ### The block's own steps -/

/-- While the sequencer has no step the worker takes its own. -/
theorem step_of_workerEnabled (hagenda : s.agenda = []) (hseq : seqEnabled s = false) (hen : workerEnabled s = true)
    (h : workerStep s = .next t) : step s = .next t :=
  step_eq_next.2 (.inl ⟨hagenda, blockStep_eq_next.2 (.inr (.inl ⟨hseq, hen, h⟩))⟩)

/-- Away from W_WAIT the sequencer does not play, and the block takes the worker's step. -/
theorem Inv.step_workerStep (hI : Inv s) (h : workerStep s = .next t) (hagenda : s.agenda = [])
    (hinfl : s.tc.inflight = true) (hw : s.tc.wstep ≠ .wWait) : step s = .next t ∧ Inv t := by
  have hstep := step_of_workerEnabled hagenda (by simp [seqEnabled, hI.not_busy hw])
    (workerEnabled_of_inflight hinfl fun h => absurd h hw) h
  exact ⟨hstep, stepKeepsInvariants s t hI hstep⟩

/-- When neither agent has a step time passes to the next timer's end. -/
theorem step_of_waiting (hagenda : s.agenda = []) (hseq : seqEnabled s = false) (hen : workerEnabled s = false) :
    step s = .next (elapse (nextDeadline s) s) :=
  step_eq_next.2 (.inl ⟨hagenda, blockStep_eq_next.2 (.inr (.inr ⟨hseq, hen, rfl⟩))⟩)

/-! ### What the block by itself leaves alone -/

/-- What the block by itself leaves as it was: the configuration, BUF, the environment, the turns to come, and the modes of the
lines. -/
structure BlockFrame (s t : State) : Prop where
  cfg : t.cfg = s.cfg
  buf : t.buf = s.buf
  env : t.env = s.env
  agenda : t.agenda = s.agenda
  mode : ∀ p, lineMode t p = lineMode s p

theorem BlockFrame.trans (h : BlockFrame s t) (h' : BlockFrame t u) : BlockFrame s u :=
  ⟨h'.cfg.trans h.cfg, h'.buf.trans h.buf, h'.env.trans h.env, h'.agenda.trans h.agenda,
    fun p => (h'.mode p).trans (h.mode p)⟩

/-- The worker's steps write the flags, WAVE, SEQ, TC, the trace, and a level. -/
theorem workerStep_blockFrame (h : workerStep s = .next t) : BlockFrame s t := by
  rcases workerStep_eq_next h with ⟨-, c, -, -, rfl⟩ | ⟨-, -, -, -, rfl⟩ | ⟨-, -, -, rfl⟩ | ⟨-, -, rfl⟩ |
    ⟨-, -, rfl⟩ | ⟨-, c, -, -, rfl⟩ | ⟨-, -, -, rfl⟩ | ⟨-, rfl⟩ | ⟨-, rfl⟩
  all_goals exact ⟨rfl, rfl, rfl, rfl, by simp⟩

/-- The sequencer's steps write levels, SEQ and the trace. -/
theorem seqStep_blockFrame (h : seqStep s = .next t) : BlockFrame s t := by
  obtain ⟨-, ⟨r, -, -, rfl⟩ | ⟨-, rfl⟩⟩ := seqStep_eq_next.1 h <;> exact ⟨rfl, rfl, rfl, rfl, by simp⟩

theorem blockStep_blockFrame (h : blockStep s = .next t) : BlockFrame s t := by
  obtain ⟨-, hseq⟩ | ⟨-, -, hworker⟩ | ⟨-, -, rfl⟩ := blockStep_eq_next.1 h
  · exact seqStep_blockFrame hseq
  · exact workerStep_blockFrame hworker
  · exact ⟨rfl, rfl, rfl, rfl, fun _ => rfl⟩

/-- With no turn listed every step of a run is the block's own. -/
theorem Reaches.blockFrame (h : Reaches s t) (hagenda : s.agenda = []) : BlockFrame s t := by
  refine h.keeps (P := BlockFrame s) (fun m u hm hstep => ?_) ⟨rfl, rfl, rfl, rfl, fun _ => rfl⟩
  obtain ⟨-, hblock⟩ | ⟨turn, rest, hturn, -⟩ := step_eq_next.1 hstep
  · exact hm.trans (blockStep_blockFrame hblock)
  · exact absurd (hturn.symm.trans (hm.agenda.trans hagenda)) (List.cons_ne_nil turn rest)

end Sys2Proof.Machine

/-! SUPPORT. A waveform played to its end, the block by itself (R172, R173, R297, R298): the hold of each record ends, the
completion detector looking meanwhile, and the records are applied one after another. -/

namespace Sys2Proof.Machine

variable {s t u : State}

/-! ### The detector while the block plays -/

/-- From `s` to `t` no time is taken back, and the next look of the completion detector comes when it was due, or a whole
number of polls later and then at most one poll ahead (R298). -/
def LooksOnTime (s t : State) : Prop :=
  s.now ≤ t.now ∧ ∃ j, t.now + t.tc.look = s.now + s.tc.look + j * (Config.q * Config.u) ∧
    (j = 0 ∨ t.tc.look ≤ Config.q * Config.u)

theorem LooksOnTime.of_same (hnow : t.now = s.now) (hlook : t.tc.look = s.tc.look) : LooksOnTime s t :=
  ⟨hnow.ge, 0, by rw [hnow, hlook, Nat.zero_mul, Nat.add_zero], .inl rfl⟩

/-- A look at 0 that finds the engine busy: the detector sleeps one poll. -/
theorem looksOnTime_setLook (hlook : s.tc.look = 0) : LooksOnTime s (setLook Config.q s) :=
  ⟨le_rfl, 1, by simp [hlook], .inr le_rfl⟩

/-- Time that passes up to the next look at the latest. -/
theorem looksOnTime_elapse {n : Nat} (h : elapsible n s ≤ s.tc.look) : LooksOnTime s (elapse n s) :=
  ⟨Nat.le_add_right _ _, 0, by simp only [elapse_now, elapse_tc]; omega, .inl rfl⟩

theorem LooksOnTime.trans (h : LooksOnTime s t) (h' : LooksOnTime t u) : LooksOnTime s u := by
  obtain ⟨hle, j, hj, hlook⟩ := h
  obtain ⟨hle', j', hj', hlook'⟩ := h'
  refine ⟨hle.trans hle', j + j', by rw [Nat.add_mul]; omega, ?_⟩
  obtain rfl | hlook' := hlook'
  · obtain rfl | hlook := hlook
    · exact .inl rfl
    · exact .inr (by omega)
  · exact .inr hlook'

/-! ### The hold of a record -/

/-- `s` when the hold of its record has just ended and the detector's next look is `look` microseconds ahead. -/
def holdEnded (look : Nat) (s : State) : State :=
  { s with now := s.now + s.seq.rem, seq := { s.seq with rem := 0 }, tc := { s.tc with look := look } }

theorem holdEnded_of_rem_zero (hrem : s.seq.rem = 0) : holdEnded s.tc.look s = s := by
  simp only [holdEnded, hrem, Nat.add_zero]
  rw [← hrem]

/-- Time that passes during a hold leaves the moment of its end. -/
theorem holdEnded_elapse {n : Nat} (look : Nat) (h : elapsible n s ≤ s.seq.rem) :
    holdEnded look (elapse n s) = holdEnded look s := by
  simp only [holdEnded, elapse, State.mk.injEq, true_and]
  omega

/-- While the sequencer plays a transmission is in flight, the waveform is valid, and the worker waits (R45 c). -/
theorem Inv.playing (hI : Inv s) (hbusy : s.seq.busy = true) :
    s.tc.inflight = true ∧ s.wave.valid = true ∧ s.tc.wstep = .wWait := by
  obtain ⟨-, -, -, hwait, -⟩ := hI
  exact hwait hbusy

section
variable (hI : Inv s) (hagenda : s.agenda = []) (hbusy : s.seq.busy = true)
include hI hagenda hbusy

/-- A look during a hold finds the engine busy and sleeps again (R298). -/
theorem step_look_of_held (hrem : s.seq.rem ≠ 0) (hlook : s.tc.look = 0) : step s = .next (setLook Config.q s) := by
  obtain ⟨hinfl, -, hw⟩ := hI.playing hbusy
  exact step_of_workerEnabled hagenda (by simp [seqEnabled, hrem]) (workerEnabled_of_inflight hinfl fun _ => hlook)
    (workerStep_wWait_busy hI hinfl hw hbusy)

/-- With both timers running time passes to the end of the first. -/
theorem step_elapse_of_held (hrem : s.seq.rem ≠ 0) (hlook : s.tc.look ≠ 0) :
    step s = .next (elapse (min s.seq.rem s.tc.look) s) := by
  obtain ⟨hinfl, -, hw⟩ := hI.playing hbusy
  have hnext : nextDeadline s = min s.seq.rem s.tc.look := by simp [nextDeadline, hbusy, hinfl, hw, hrem, hlook]
  exact hnext ▸ step_of_waiting hagenda (by simp [seqEnabled, hrem]) (by simp [workerEnabled, hw, hlook])

/-- When its hold has ended the sequencer's step is the block's. -/
theorem step_eq_seqStep (hrem : s.seq.rem = 0) : step s = seqStep s := by
  obtain ⟨-, -, -, -, -, -, -, -, -, -, hrange, -⟩ := hI
  exact (step_of_seqEnabled (seqEnabled_eq_true.2 ⟨hbusy, hrem, hrange hbusy⟩)).1 hagenda

/-- The record at SEQ.idx is applied: no record of a valid waveform is reserved. -/
theorem step_applyRecord {r : Pulse} (hrem : s.seq.rem = 0) (hr : s.wave.entry[s.seq.idx]? = some r) :
    step s = .next (applyRecord r s) := by
  obtain ⟨-, hwave, -⟩ := hI.playing hbusy
  refine (step_eq_seqStep hI hagenda hbusy hrem).trans (seqStep_eq_next.2 ⟨hwave, .inl ⟨r, hr, ?_, rfl⟩⟩)
  obtain ⟨-, -, -, -, -, -, -, -, -, hframe, -⟩ := hI
  exact (hframe hwave).2 r (List.mem_of_getElem? hr)

/-- Past the last record the sequencer finishes. -/
theorem step_seqFinish (hrem : s.seq.rem = 0) (hend : s.wave.entry[s.seq.idx]? = none) : step s = .next (seqFinish s) := by
  obtain ⟨-, hwave, -⟩ := hI.playing hbusy
  exact (step_eq_seqStep hI hagenda hbusy hrem).trans (seqStep_eq_next.2 ⟨hwave, .inr ⟨hend, rfl⟩⟩)

end

/-- The hold of a record ends after exactly what is left of it, however often the detector looks meanwhile. -/
theorem reaches_holdEnded (hI : Inv s) (hagenda : s.agenda = []) (hbusy : s.seq.busy = true) (hidx : s.seq.idx ≠ 0) :
    ∃ look, Reaches s (holdEnded look s) ∧ LooksOnTime s (holdEnded look s) := by
  -- Each step shortens the hold, or is a look, after which the next step shortens it.
  induction hm : 2 * s.seq.rem + (if s.tc.look = 0 then 1 else 0) using Nat.strong_induction_on generalizing s with
  | _ m ih =>
  by_cases hrem : s.seq.rem = 0
  · have hs := holdEnded_of_rem_zero hrem
    exact ⟨s.tc.look, hs.symm ▸ .refl s, hs.symm ▸ .of_same rfl rfl⟩
  by_cases hlook : s.tc.look = 0
  · have hstep := step_look_of_held hI hagenda hbusy hrem hlook
    obtain ⟨look, hrun, hon⟩ := ih _ (by simp [← hm, hlook, Config.q, Config.u])
      (stepKeepsInvariants _ _ hI hstep) hagenda hbusy hidx rfl
    exact ⟨look, .head hstep hrun, (looksOnTime_setLook hlook).trans hon⟩
  · have hstep := step_elapse_of_held hI hagenda hbusy hrem hlook
    have hpass : elapsible (min s.seq.rem s.tc.look) s = min s.seq.rem s.tc.look := by simp [elapsible, hbusy, hidx]
    obtain ⟨look, hrun, hon⟩ := ih _ (by simp only [← hm, elapse_seq, elapse_tc, hpass]; split <;> omega)
      (stepKeepsInvariants _ _ hI hstep) hagenda hbusy hidx rfl
    have hon' := (looksOnTime_elapse (s := s) (hpass.trans_le (min_le_right _ _))).trans hon
    rw [holdEnded_elapse look (hpass.trans_le (min_le_left _ _))] at hrun hon'
    exact ⟨look, .head hstep hrun, hon'⟩

/-! ### The whole waveform -/

/-- `u` is `s` after the records `rs` have been played to the end of the waveform: their events and IDLE are in the trace, each
line is at the level the records leave it at, and exactly their durations have passed, the detector looking when it is due
(R298, R301). -/
structure PlayedOut (rs : List Pulse) (s u : State) : Prop where
  busy : u.seq.busy = false
  tc : u.tc = { s.tc with look := u.tc.look }
  trace : u.trace = s.trace ++ pulseEvents s.seq.idx rs ++ [.idle]
  level : ∀ p, lineLevel u p = levelAt p rs (totalMicros rs) (lineLevel s p)
  now : u.now = s.now + totalMicros rs
  looks : LooksOnTime s u

/-- After its whole duration a sequence leaves a line as its later records leave it after their own. -/
theorem levelAt_cons_totalMicros (p : Pin) (r : Pulse) (rs : List Pulse) (old : Bool) :
    levelAt p (r :: rs) (totalMicros (r :: rs)) old = levelAt p rs (totalMicros rs) (recordLevel r p old) := by
  rw [levelAt, totalMicros, if_neg (by omega), Nat.add_sub_cancel_left]

/-- The sequencer's step at the end of the waveform. -/
theorem playedOut_seqFinish (s : State) : PlayedOut [] s (seqFinish s) where
  busy := rfl
  tc := rfl
  trace := by rw [pulseEvents, List.append_nil, seqFinish_trace]
  level _ := rfl
  now := rfl
  looks := .of_same rfl rfl

/-- One record applied and held, and then the others. -/
theorem PlayedOut.cons {r : Pulse} {rs : List Pulse} {look : Nat}
    (hon : LooksOnTime (applyRecord r s) (holdEnded look (applyRecord r s)))
    (h : PlayedOut rs (holdEnded look (applyRecord r s)) u) : PlayedOut (r :: rs) s u where
  busy := h.busy
  tc := h.tc
  trace := by
    rw [h.trace, pulseEvents]
    simp [holdEnded]
  level p := by
    rw [h.level, levelAt_cons_totalMicros, ← lineLevel_applyRecord]
    rfl
  now := by
    rw [h.now, totalMicros, ← Nat.add_assoc]
    rfl
  looks := .trans (t := applyRecord r s) (.of_same rfl rfl) (hon.trans h.looks)

/-- A playing block with no hold left plays its remaining records and finishes: each is fetched, applied and held. -/
theorem reaches_playedOut {rs : List Pulse} (hI : Inv s) (hagenda : s.agenda = []) (hbusy : s.seq.busy = true)
    (hrem : s.seq.rem = 0) (hrs : s.wave.entry.drop s.seq.idx = rs) : ∃ u, Reaches s u ∧ PlayedOut rs s u := by
  induction rs generalizing s with
  | nil =>
    have hend : s.wave.entry[s.seq.idx]? = none := by rw [← List.head?_drop, hrs, List.head?_nil]
    exact ⟨_, .single (step_seqFinish hI hagenda hbusy hrem hend), playedOut_seqFinish s⟩
  | cons r rs ih =>
    have hfetch : s.wave.entry[s.seq.idx]? = some r := by rw [← List.head?_drop, hrs, List.head?_cons]
    have happly := step_applyRecord hI hagenda hbusy hrem hfetch
    have hI' := stepKeepsInvariants _ _ hI happly
    obtain ⟨look, hheld, hon⟩ := reaches_holdEnded hI' hagenda hbusy (Nat.succ_ne_zero _)
    have hrest : s.wave.entry.drop (s.seq.idx + 1) = rs := by rw [← List.tail_drop, hrs, List.tail_cons]
    obtain ⟨u, hrun, hplayed⟩ := ih (hheld.inv hI') hagenda hbusy rfl hrest
    exact ⟨u, .head happly (hheld.trans hrun), .cons hon hplayed⟩

end Sys2Proof.Machine

/-! SUPPORT. A transmission from its acceptance to DONE, the block by itself (R213, R225): the worker up to W_START, the
waveform played to its end, and the worker from W_WAIT on. -/

namespace Sys2Proof.Machine

variable {s u : State} {c : PinConfig}

/-! ### From W_ENABLE to W_START -/

/-- `u` is `s` after the driver has been switched on and the records `rs` given to the sequencer, which is about to apply the
first. -/
structure Started (c : PinConfig) (rs : List Pulse) (s u : State) : Prop where
  busy : u.seq.busy = true
  idx : u.seq.idx = 0
  rem : u.seq.rem = 0
  wave : u.wave.entry = rs
  trace : u.trace = s.trace ++ [.pin c.enPin (!c.invertEn)]
  level : ∀ p, lineLevel u p = if p = c.enPin then !c.invertEn else lineLevel s p

/-- The worker's first three steps (R216, R217, R218). -/
theorem reaches_started (hI : Inv s) (hcfg : s.cfg = some c) (hagenda : s.agenda = []) (hinfl : s.tc.inflight = true)
    (hw : s.tc.wstep = .wEnable) : ∃ u, Reaches s u ∧ Started c s.ps.entry s u := by
  have hrem : s.seq.rem = 0 := by
    obtain ⟨-, -, -, -, -, -, -, -, -, -, -, hhold, -⟩ := id hI
    exact hhold (hI.not_busy (by simp [hw]))
  obtain ⟨henable, hI⟩ := hI.step_workerStep (workerStep_wEnable hI hcfg hw) hagenda hinfl (by simp [hw])
  obtain ⟨hsubmit, hI⟩ := hI.step_workerStep (workerStep_wSubmit hI hinfl rfl) hagenda hinfl (by simp)
  obtain ⟨hstart, -⟩ := hI.step_workerStep (workerStep_wStart hI hinfl rfl) hagenda hinfl (by simp)
  exact ⟨_, .head henable (.head hsubmit (.single hstart)), rfl, rfl, hrem, rfl, rfl,
    lineLevel_drivePin s c.enPin (!c.invertEn)⟩

/-! ### From W_WAIT to DONE -/

theorem elapse_zero (s : State) : elapse 0 s = s := by simp [elapse, elapsible]

/-- With the sequencer idle the block waits for the detector's next look, which is W_WAIT (R219). -/
theorem reaches_wDisable (hagenda : s.agenda = []) (hinfl : s.tc.inflight = true)
    (hbusy : s.seq.busy = false) (hw : s.tc.wstep = .wWait) :
    Reaches s (setWstep .wDisable (elapse s.tc.look s)) := by
  have hlooked : (elapse s.tc.look s).tc.look = 0 := by simp [elapsible, hbusy]
  have hwait : step (elapse s.tc.look s) = .next (setWstep .wDisable (elapse s.tc.look s)) :=
    step_of_workerEnabled hagenda (by simp [seqEnabled, hbusy]) (workerEnabled_of_inflight hinfl fun _ => hlooked)
      (workerStep_wWait_idle hw hbusy)
  by_cases hlook : s.tc.look = 0
  · rw [hlook, elapse_zero] at hwait ⊢
    exact .single hwait
  · have hstep := step_of_waiting hagenda (by simp [seqEnabled, hbusy]) (by simp [workerEnabled, hw, hlook])
    have hnext : nextDeadline s = s.tc.look := by simp [nextDeadline, hbusy, hinfl, hw]
    exact .head (hnext ▸ hstep) (.single hwait)

/-- `u` is `s` after the driver has been switched off and DONE emitted. -/
structure Completed (c : PinConfig) (s u : State) : Prop where
  inflight : u.tc.inflight = false
  trace : u.trace = s.trace ++ [.pin c.enPin c.invertEn, .done]
  level : ∀ p, lineLevel u p = if p = c.enPin then c.invertEn else lineLevel s p

/-- The worker's last four steps (R220, R221, R222, R224). -/
theorem reaches_completed_of_wDisable (hI : Inv s) (hcfg : s.cfg = some c) (hagenda : s.agenda = [])
    (hinfl : s.tc.inflight = true) (hw : s.tc.wstep = .wDisable) : ∃ u, Reaches s u ∧ Completed c s u := by
  obtain ⟨hdisable, hI⟩ := hI.step_workerStep (workerStep_wDisable hI hcfg hw) hagenda hinfl (by simp [hw])
  obtain ⟨hdelete, hI⟩ := hI.step_workerStep (workerStep_wDelete hI hinfl rfl) hagenda hinfl (by simp)
  obtain ⟨hfree, hI⟩ := hI.step_workerStep (workerStep_wFree rfl) hagenda hinfl (by simp)
  obtain ⟨hdone, -⟩ := hI.step_workerStep (workerStep_wDone rfl) hagenda hinfl (by simp)
  exact ⟨_, .head hdisable (.head hdelete (.head hfree (.single hdone))), rfl, by simp, by simp⟩

/-! ### The whole transmission -/

/-- Records of a form the sequencer accepts leave every line but TX at its level. -/
theorem levelAt_other {rs : List Pulse} {p : Pin} (hp : p ≠ c.txPin)
    (hrs : ∀ r ∈ rs, reservedRecord (some c) r = false) (t : Nat) (old : Bool) : levelAt p rs t old = old := by
  induction rs generalizing t with
  | nil => rfl
  | cons r rs ih =>
    rw [levelAt, recordLevel_other (hrs r List.mem_cons_self) hp,
      ih fun r hr => hrs r (List.mem_cons_of_mem _ hr)]
    exact ite_self _

/-- The encoding of a payload leaves TX at mark and the other lines as they were (R175). -/
theorem levelAt_encodeRecords_end (c : PinConfig) (bytes : List Byte) (p : Pin) (old : Bool) :
    levelAt p (encodeRecords c bytes) (totalMicros (encodeRecords c bytes)) old =
      if p = c.txPin then !c.invertTx else old := by
  split
  · next hp => exact hp ▸ levelAt_encodeRecords_of_ended c bytes old (totalMicros_encodeRecords c bytes).ge
  · next hp => exact levelAt_other hp reservedRecord_encodeRecords _ old

/-- From W_ENABLE with the encoding of a payload in PS the block by itself reaches DONE, with exactly the trace of R225 after
its response. -/
theorem reaches_done {bytes : List Byte} (hI : Inv s) (hcfg : s.cfg = some c) (hagenda : s.agenda = [])
    (hinfl : s.tc.inflight = true) (hw : s.tc.wstep = .wEnable) (hps : s.ps.entry = encodeRecords c bytes) :
    ∃ u, Reaches s u ∧ u.tc.inflight = false ∧
      u.trace = s.trace ++ [.pin c.enPin (!c.invertEn)] ++ pulseEvents 0 (encodeRecords c bytes) ++
        [.idle, .pin c.enPin c.invertEn, .done] ∧
      ∀ p, lineLevel u p = if p = c.enPin then c.invertEn else if p = c.txPin then !c.invertTx else lineLevel s p := by
  obtain ⟨s₁, hrun₁, h₁⟩ := reaches_started hI hcfg hagenda hinfl hw
  have hI₁ := hrun₁.inv hI
  have hagenda₁ : s₁.agenda = [] := (hrun₁.blockFrame hagenda).agenda.trans hagenda
  have hdrop : s₁.wave.entry.drop s₁.seq.idx = encodeRecords c bytes := by rw [h₁.idx, List.drop_zero, h₁.wave, hps]
  obtain ⟨s₂, hrun₂, h₂⟩ := reaches_playedOut hI₁ hagenda₁ h₁.busy h₁.rem hdrop
  have hframe₂ := (hrun₁.trans hrun₂).blockFrame hagenda
  have hagenda₂ : s₂.agenda = [] := hframe₂.agenda.trans hagenda
  obtain ⟨hinfl₁, -, hw₁⟩ := hI₁.playing h₁.busy
  have hinfl₂ : s₂.tc.inflight = true := by rw [h₂.tc]; exact hinfl₁
  have hw₂ : s₂.tc.wstep = .wWait := by rw [h₂.tc]; exact hw₁
  have hrun₃ := reaches_wDisable hagenda₂ hinfl₂ h₂.busy hw₂
  obtain ⟨u, hrun₄, h₄⟩ :=
    reaches_completed_of_wDisable (hrun₃.inv (hrun₂.inv hI₁)) (hframe₂.cfg.trans hcfg) hagenda₂ hinfl₂ rfl
  refine ⟨u, hrun₁.trans (hrun₂.trans (hrun₃.trans hrun₄)), h₄.inflight, ?_, fun p => ?_⟩
  · rw [h₄.trace, setWstep_trace, elapse_trace, h₂.trace, h₁.trace, h₁.idx]
    simp
  · rw [h₄.level, lineLevel_setWstep, lineLevel_elapse, h₂.level, levelAt_encodeRecords_end, h₁.level]
    split <;> rfl

/-- Settles O58: the run from the accepted state; what the block leaves idle is said by the invariants. -/
theorem transmissionRunsToDone : Obligations.TransmissionRunsToDone := by
  intro s t c n hI hcfg hagenda hidle hfits h
  obtain rfl : t = respond .transmit .ok (accept c n s) := by
    rw [exec_transmit_of_idle n hcfg hidle, if_pos hfits] at h
    exact (Host.Outcome.next.inj h).symm
  have hIt : Inv (respond .transmit .ok (accept c n s)) := (inv_accept hI hcfg hidle hfits).respond
  obtain ⟨u, hrun, hdone, htrace, hlevel⟩ := reaches_done hIt hcfg hagenda rfl rfl rfl
  have hframe := hrun.blockFrame hagenda
  have hflags : flags u = flags s := by
    rw [(hrun.inv hIt).flags_idle hdone, hI.flags_idle hidle, cfgValid, hframe.cfg]
    rfl
  obtain ⟨-, -, -, hen, -⟩ := (inv_idle_iff hidle).1 hI
  obtain ⟨k, hk⟩ := hrun
  refine ⟨k, u, hk, ?_, hframe.cfg, congrArg FlagSet.engUp hflags, hflags, hframe.buf, hframe.env,
    hframe.agenda.trans hagenda, fun q => ⟨?_, hframe.mode q⟩⟩
  · rw [htrace, transmissionTrace, physicalEn_true, physicalEn_false]
    simp
  · have hne := hI.txPin_ne_enPin hcfg
    rw [hlevel q]
    by_cases hq : q = c.enPin
    · rw [if_pos hq, if_neg (hq ▸ hne.symm), hq, hen c hcfg]
    · rw [if_neg hq]; rfl

end Sys2Proof.Machine

/-! SUPPORT. From a state with the invariants every move the block or a polite host can make is answered with a next state
(R65, R177, R254, and spec/93_implementation_defined.md). -/

namespace Sys2Proof.Machine

variable {s : State}

/-! ### The block's own steps (R65, R174, R177) -/

/-- The sequencer's step is answered: the waveform it plays is valid, and none of its records is reserved. -/
theorem Inv.seqStep_answers (hI : Inv s) (hen : seqEnabled s = true) : ∃ t, seqStep s = .next t := by
  obtain ⟨hbusy, -⟩ := seqEnabled_eq_true.1 hen
  obtain ⟨-, hwave, -⟩ := hI.playing hbusy
  obtain ⟨-, -, -, -, -, -, -, -, -, hframe, -⟩ := hI
  cases hr : s.wave.entry[s.seq.idx]? with
  | none => exact ⟨_, seqStep_eq_next.2 ⟨hwave, .inr ⟨hr, rfl⟩⟩⟩
  | some r => exact ⟨_, seqStep_eq_next.2 ⟨hwave, .inl ⟨r, hr, (hframe hwave).2 r (List.mem_of_getElem? hr), rfl⟩⟩⟩

/-- In flight each of the worker's steps is answered. -/
theorem Inv.workerStep_answers (hI : Inv s) (hinfl : s.tc.inflight = true) : ∃ t, workerStep s = .next t := by
  obtain ⟨c, hcfg⟩ := hI.cfg_of_inflight hinfl
  cases hw : s.tc.wstep with
  | wEnable => exact ⟨_, workerStep_wEnable hI hcfg hw⟩
  | wSubmit => exact ⟨_, workerStep_wSubmit hI hinfl hw⟩
  | wStart => exact ⟨_, workerStep_wStart hI hinfl hw⟩
  | wWait =>
    cases hbusy : s.seq.busy with
    | true => exact ⟨_, workerStep_wWait_busy hI hinfl hw hbusy⟩
    | false => exact ⟨_, workerStep_wWait_idle hw hbusy⟩
  | wDisable => exact ⟨_, workerStep_wDisable hI hcfg hw⟩
  | wDelete => exact ⟨_, workerStep_wDelete hI hinfl hw⟩
  | wFree => exact ⟨_, workerStep_wFree hw⟩
  | wDone => exact ⟨_, workerStep_wDone hw⟩

/-- The worker's turn is answered. -/
theorem Inv.runWorker_answers (hI : Inv s) : ∃ t, runWorker s = .next t := by
  cases hen : workerEnabled s with
  | true =>
    exact (hI.workerStep_answers (inflight_of_workerEnabled hen)).imp fun _ h => runWorker_eq_next.2 (.inl ⟨hen, h⟩)
  | false => exact ⟨s, runWorker_eq_next.2 (.inr ⟨hen, rfl⟩)⟩

/-- The sequencer's turn is answered. -/
theorem Inv.runSequencer_answers (hI : Inv s) : ∃ t, runSequencer s = .next t := by
  cases hen : seqEnabled s with
  | true => exact (hI.seqStep_answers hen).imp fun _ h => runSequencer_eq_next.2 (.inl ⟨hen, h⟩)
  | false => exact ⟨s, runSequencer_eq_next.2 (.inr ⟨hen, rfl⟩)⟩

/-- The block by itself always goes on. -/
theorem Inv.blockStep_answers (hI : Inv s) : ∃ t, blockStep s = .next t := by
  unfold blockStep
  split
  · next hseq => exact hI.seqStep_answers hseq
  split
  · next hworker => exact hI.workerStep_answers (inflight_of_workerEnabled hworker)
  · exact ⟨_, rfl⟩

/-! ### The host's commands (R105, R210, R233) -/

/-- INIT is answered in every condition: unconfigured, the engine is down (R45 a). -/
theorem Inv.init_answers (hI : Inv s) (a b : Int) (x y : Bool) : ∃ t, exec (.init a b x y) s = .next t := by
  by_cases hcfg : s.cfg = none
  · obtain ⟨hdown, -⟩ := (inv_unconfigured_iff hcfg).1 hI
    exact exec_init_answers a b x y hdown
  · exact ⟨_, exec_init_of_configured a b x y hcfg⟩

/-- A TRANSMIT whose payload fits is answered in every condition. -/
theorem transmit_answers {n : Nat} (hfits : payloadFits n = true) (s : State) :
    ∃ t, exec (.transmit n) s = .next t := by
  cases hcfg : s.cfg with
  | none => exact ⟨_, exec_transmit_of_unconfigured n hcfg⟩
  | some c =>
    cases hinfl : s.tc.inflight with
    | true => exact ⟨_, exec_transmit_of_inflight n hcfg hinfl⟩
    | false => exact ⟨_, (exec_transmit_of_idle n hcfg hinfl).trans (if_pos hfits)⟩

/-- The one way a command word fails to decode (R105). -/
theorem decode_cmd_error {w : BitVec 32} {e : DecodeError} (h : decode (.cmd w) = .error e) : e = .reservedCommand := by
  simp only [decode, decodeCmd] at h
  split at h
  · split at h <;> cases h; rfl
  · cases h
  · split at h <;> cases h; rfl
  · cases h; rfl

/-- A polite host's command is answered: its word decodes, a CLOSE comes with nothing in flight, a payload fits. -/
theorem Inv.runRaw_cmd_answers {w : BitVec 32} (hI : Inv s) (hdec : decode (.cmd w) ≠ .error .reservedCommand)
    (hclose : w = 0x00000002#32 → s.tc.inflight = false)
    (hfits : ∀ n, decode (.cmd w) = .ok (.transmit n) → payloadFits n = true) : ∃ t, runRaw (.cmd w) s = .next t := by
  cases h : decode (.cmd w) with
  | error e => exact absurd (decode_cmd_error h ▸ h) hdec
  | ok i =>
    rw [runRaw_of_decode h]
    obtain ⟨-, -, rfl⟩ | ⟨-, rfl⟩ | ⟨hop, hzero, rfl⟩ := decodeCmd_eq_ok h
    · exact hI.init_answers _ _ _ _
    · exact transmit_answers (hfits _ h) s
    · exact ⟨_, exec_close_of_idle (hclose (closeWord_of_cmdField hop hzero).symm)⟩

/-! ### Every step -/

/-- Settles O51: the block's own step, or the next turn, which is the host's or one of the others from outside. -/
theorem blockGoesOnForPoliteHost : Obligations.BlockGoesOnForPoliteHost := by
  intro s hI hclose hbad
  cases hagenda : s.agenda with
  | nil => simpa only [step, machineStep, hagenda] using hI.blockStep_answers
  | cons u rest =>
    obtain ⟨hext, hrest⟩ := hI.external_of_agenda hagenda
    have hI' : Inv { s with agenda := rest } := hI.with_agenda hrest
    rw [step_of_agenda hagenda]
    cases u with
    | host w bytes =>
      refine (hI'.with_buf (Memory.wf_place bytes 0 hI'.buf_wf)).runRaw_cmd_answers
        (fun h => hbad ⟨w, bytes, rest, hagenda, .inl h⟩) (fun hw => ?_) (fun n hn => ?_)
      · exact eq_false_of_ne_true fun hinfl => hclose ⟨hinfl, bytes, rest, hw ▸ hagenda⟩
      · exact eq_true_of_ne_false fun hlong => hbad ⟨w, bytes, rest, hagenda, .inr ⟨n, hn, hlong⟩⟩
    | hostStore i b => exact ⟨_, rfl⟩
    | worker => exact hI'.runWorker_answers
    | sequencer => exact hI'.runSequencer_answers
    | elapse n => exact ⟨_, rfl⟩
    | internal raw => cases hext

end Sys2Proof.Machine

/-! SUPPORT. Accepted TRANSMITs and DONE events counted along the trace (R224, R256). -/

namespace Sys2Proof.Machine

variable {s t : State}

/-- The accepted TRANSMITs are as many as the DONE events, plus one while a transmission is in flight (R256). -/
def DoneBalanced (s : State) : Prop :=
  acceptedCount s.trace = doneCount s.trace + (if s.tc.inflight then 1 else 0)

/-- A move that leaves TC.inflight, and emits neither DONE nor the acceptance of a TRANSMIT, keeps the balance. -/
theorem DoneBalanced.append {es : List Event} (hs : DoneBalanced s) (hinfl : t.tc.inflight = s.tc.inflight)
    (htrace : t.trace = s.trace ++ es) (haccept : Event.resp .transmit .ok ∉ es := by simp)
    (hdone : Event.done ∉ es := by simp) : DoneBalanced t := by
  rw [DoneBalanced, htrace, hinfl, acceptedCount, doneCount, List.count_append, List.count_append,
    List.count_eq_zero_of_not_mem haccept, List.count_eq_zero_of_not_mem hdone]
  exact hs

/-- An accepted TRANSMIT is counted, and is in flight (R210). -/
theorem DoneBalanced.accept {c : PinConfig} (n : Nat) (hs : DoneBalanced s) (hidle : s.tc.inflight = false) :
    DoneBalanced (respond .transmit .ok (accept c n s)) := by
  have hcount : acceptedCount s.trace = doneCount s.trace := by simpa [DoneBalanced, hidle] using hs
  simpa [DoneBalanced, Machine.accept, acceptedCount, doneCount] using hcount

/-- W_DONE counts one DONE, and nothing is in flight any more (R224). -/
theorem DoneBalanced.done (hs : DoneBalanced s) (hinfl : s.tc.inflight = true) :
    DoneBalanced (emit .done (setInflight false s)) := by
  have hcount : acceptedCount s.trace = doneCount s.trace + 1 := by simpa [DoneBalanced, hinfl] using hs
  simpa [DoneBalanced, acceptedCount, doneCount] using hcount

/-- An operation keeps the balance: only a TRANSMIT is accepted, with none in flight, and none emits DONE. -/
theorem exec_doneBalanced {i : Instr} (hs : DoneBalanced s) (h : exec i s = .next t) : DoneBalanced t := by
  cases exec_effect h with
  | transmitAccepted n c _ hidle => exact hs.accept n hidle
  | transmitRejected n e herr => exact hs.append (es := [.resp .transmit e]) rfl rfl (by simpa using herr.symm)
  | initConfigured => exact hs.append (es := [.resp .init .alreadyInitialized]) rfl rfl
  | initNoEngine => exact hs.append (es := [.resp .init .hardwareInitFailed]) (by simp) (by simp)
  | initRolledBack _ _ _ _ e | initRolledBackTx _ _ _ _ e => exact hs.append (es := [.resp .init e]) (by simp) (by simp)
  | initDone _ en _ y =>
    exact hs.append (es := [.pin en (physicalEn false y), .resp .init .ok]) (by simp) (by simp)
  | close => exact hs.append (es := [.resp .close .ok]) (by simp) (by simp)
  | writePin p b | enEnable p b | enDisable p b => exact hs.append (es := [.pin _ _]) rfl rfl
  | pulseHi _ _ | pulseLo _ _ => exact hs.append (es := [.pulse _ _ _ _]) rfl rfl
  | _ => exact hs.append (es := []) (by simp) (by simp)

/-- The worker keeps the balance: its last step alone emits DONE, and ends the transmission in flight. -/
theorem workerStep_doneBalanced (hs : DoneBalanced s) (hinfl : s.tc.inflight = true) (h : workerStep s = .next t) :
    DoneBalanced t := by
  rcases workerStep_eq_next h with ⟨-, _, -, -, rfl⟩ | ⟨-, -, -, -, rfl⟩ | ⟨-, -, -, rfl⟩ | ⟨-, -, rfl⟩ | ⟨-, -, rfl⟩ |
    ⟨-, _, -, -, rfl⟩ | ⟨-, -, -, rfl⟩ | ⟨-, rfl⟩ | ⟨-, rfl⟩
  -- W_ENABLE
  · exact hs.append (es := [.pin _ _]) rfl rfl
  · exact hs
  · exact hs
  · exact hs
  · exact hs
  -- W_DISABLE
  · exact hs.append (es := [.pin _ _]) rfl rfl
  · exact hs
  · exact hs
  -- W_DONE
  · exact hs.done hinfl

/-- The sequencer emits a pulse, or that it is idle. -/
theorem seqStep_doneBalanced (hs : DoneBalanced s) (h : seqStep s = .next t) : DoneBalanced t := by
  obtain ⟨-, ⟨r, -, -, rfl⟩ | ⟨-, rfl⟩⟩ := seqStep_eq_next.1 h
  · exact hs.append (es := [.pulse _ _ _ _]) rfl rfl
  · exact hs.append (es := [.idle]) rfl rfl

/-- Every turn keeps the balance, one on the internal port too. -/
theorem runTurn_doneBalanced {u : Turn} (hs : DoneBalanced s) (h : runTurn u s = .next t) : DoneBalanced t := by
  cases u with
  | host w bytes =>
    obtain ⟨i, -, hi⟩ := runRaw_eq_next.1 h
    exact exec_doneBalanced (s := { s with buf := Memory.place s.buf 0 bytes }) hs hi
  | hostStore i b => cases h; exact hs
  | worker =>
    obtain ⟨hen, hstep⟩ | ⟨-, rfl⟩ := runWorker_eq_next.1 h
    · exact workerStep_doneBalanced hs (inflight_of_workerEnabled hen) hstep
    · exact hs
  | sequencer =>
    obtain ⟨-, hstep⟩ | ⟨-, rfl⟩ := runSequencer_eq_next.1 h
    · exact seqStep_doneBalanced hs hstep
    · exact hs
  | elapse n => cases h; exact hs
  | internal raw =>
    obtain ⟨i, -, hi⟩ := runRaw_eq_next.1 h
    exact exec_doneBalanced hs hi

/-- The block by itself keeps the balance. -/
theorem blockStep_doneBalanced (hs : DoneBalanced s) (h : blockStep s = .next t) : DoneBalanced t := by
  obtain ⟨-, hstep⟩ | ⟨-, hen, hstep⟩ | ⟨-, -, rfl⟩ := blockStep_eq_next.1 h
  · exact seqStep_doneBalanced hs hstep
  · exact workerStep_doneBalanced hs (inflight_of_workerEnabled hen) hstep
  · exact hs

/-- Settles O52: the block's own step, or the next turn's. -/
theorem oneDonePerAcceptedTransmit : Obligations.OneDonePerAcceptedTransmit := by
  intro s t h (hs : DoneBalanced s)
  obtain ⟨-, hblock⟩ | ⟨u, rest, -, hturn⟩ := step_eq_next.1 h
  · exact blockStep_doneBalanced hs hblock
  · exact runTurn_doneBalanced (s := { s with agenda := rest }) hs hturn

end Sys2Proof.Machine

/-! SUPPORT. The order in which INIT and TRANSMIT test for their errors (R249). -/

namespace Sys2Proof.Machine

variable {s : State}

/-- A draw of `pinModeOk` is the next answer listed, and true when none is (assumption 6). -/
theorem pinModeAnswer_eq_headD (s : State) : pinModeAnswer s = s.env.pinModeOk.headD true := by
  unfold pinModeAnswer
  cases s.env.pinModeOk <;> rfl

/-- INIT's work on one pin: the line is judged before its mode is drawn (R244, R245). -/
theorem initPin_by_test (p : Int) (s : State) :
    (¬ (0 ≤ p ∧ p < 32) ∧ initPin p s = (.error .invalidPinError, engineTerm s)) ∨
    ((0 ≤ p ∧ p < 32) ∧ s.env.pinModeOk.headD true = false ∧
      initPin p s = (.error .pinModeError, engineTerm (takePinModeAnswer s))) ∨
    ((0 ≤ p ∧ p < 32) ∧ s.env.pinModeOk.headD true = true ∧
      ∃ q, initPin p s = (.ok q, setMode q .output (takePinModeAnswer s))) := by
  have hvalid {q : Pin} (hq : pinOf p = some q) : 0 ≤ p ∧ p < 32 := by
    by_contra hp
    simp [pinOf_eq_none.2 hp] at hq
  rw [← pinModeAnswer_eq_headD, initPin]
  rcases setPinMode_cases p s with ⟨hq, h⟩ | ⟨q, hq, hmode, h⟩ | ⟨q, hq, hmode, h⟩ <;> rw [h]
  · exact .inl ⟨pinOf_eq_none.1 hq, rfl⟩
  · exact .inr (.inl ⟨hvalid hq, hmode, rfl⟩)
  · exact .inr (.inr ⟨hvalid hq, hmode, q, rfl⟩)

/-- The first error that applies to INIT's pins, once the engine is up (R249); `modes` are the answers to `pinModeOk`. -/
def firstPinsError (a b : Int) (modes : List Bool) : Code :=
  if a = b then .samePinError
  else if ¬ (0 ≤ a ∧ a < 32) then .invalidPinError
  else if modes.headD true = false then .pinModeError
  else if ¬ (0 ≤ b ∧ b < 32) then .invalidPinError
  else if modes.tail.headD true = false then .pinModeError
  else .ok

/-- INIT's work on its pins answers the first error: TX is done with before EN is looked at. -/
theorem initPins_fst (a b : Int) (x y : Bool) (s : State) :
    (initPins a b x y s).1 = firstPinsError a b s.env.pinModeOk := by
  unfold initPins firstPinsError
  split
  · rfl
  rcases initPin_by_test a s with ⟨ha, h⟩ | ⟨ha, hmode, h⟩ | ⟨ha, hmode, tx, h⟩
  · rw [h, if_pos ha]
  · rw [h, if_neg (not_not_intro ha), if_pos hmode]
  rw [h, if_neg (not_not_intro ha), if_neg (ne_false_of_eq_true hmode)]
  rcases initPin_by_test b (setMode tx .output (takePinModeAnswer s)) with
    ⟨hb, h'⟩ | ⟨hb, hmode', h'⟩ | ⟨hb, hmode', en, h'⟩
  · simp only [h', if_pos hb]
  · simp only [h', if_neg (not_not_intro hb)]
    exact (if_pos hmode').symm
  · simp only [h', if_neg (not_not_intro hb)]
    exact (if_neg (ne_false_of_eq_true hmode')).symm

/-- INIT's work on its pins takes no event back. -/
theorem initPins_trace_extends (a b : Int) (x y : Bool) (s : State) :
    ∃ es, (initPins a b x y s).2.trace = s.trace ++ es := by
  rcases initPins_cases a b x y s with ⟨e, env, -, h⟩ | ⟨tx, e, env, -, -, h⟩ | ⟨tx, en, env, -, -, -, h⟩ <;> simp [h]

/-- The first error that applies to an INIT (R249). -/
def firstInitError (a b : Int) (s : State) : Code :=
  if s.cfg.isSome then .alreadyInitialized
  else if engineAnswer s = false then .hardwareInitFailed
  else firstPinsError a b s.env.pinModeOk

/-- INIT's result is the first error that applies, and no event is taken back. -/
theorem initResult_first_error (a b : Int) (x y : Bool) (hdown : s.cfg = none → s.engUp = false) :
    ∃ u es, initResult a b x y s = .ok (firstInitError a b s, u) ∧ u.trace = s.trace ++ es := by
  unfold initResult firstInitError cfgValid
  cases hcfg : s.cfg with
  | some c => exact ⟨s, [], rfl, by simp⟩
  | none =>
    rcases engineInit_cases (s := s) with ⟨hup, -⟩ | ⟨-, hans, h⟩ | ⟨-, hans, h⟩
    · simp [hdown hcfg] at hup
    · have hpins := initPins_fst a b x y (setWaveValid false (setBusy false (setEngUp true (takeEngineAnswer s))))
      obtain ⟨es, htrace⟩ := initPins_trace_extends a b x y
        (setWaveValid false (setBusy false (setEngUp true (takeEngineAnswer s))))
      refine ⟨_, es, ?_, htrace.trans (by simp)⟩
      simpa [h, hans, Prod.ext_iff] using hpins
    · exact ⟨takeEngineAnswer s, [], by simp [h, hans], by simp⟩

/-- Settles O20: INIT by its result, TRANSMIT by its two rejections, whose conditions exclude each other. -/
theorem firstErrorInOrder : Obligations.FirstErrorInOrder := by
  refine ⟨fun s a b x y hdown => ?_, fun s n => ⟨exec_transmit_of_unconfigured n, fun hcfg hinfl => ?_⟩,
    fun s hI hinfl => ?_⟩
  · obtain ⟨u, es, hr, htrace⟩ := initResult_first_error a b x y hdown
    exact ⟨_, es, execInit_eq_next.2 ⟨_, hr, rfl⟩, by rw [respond_trace, htrace]; rfl⟩
  · obtain ⟨c, hcfg⟩ := Option.ne_none_iff_exists'.1 hcfg
    exact exec_transmit_of_inflight n hcfg hinfl
  · obtain ⟨c, hcfg⟩ := hI.cfg_of_inflight hinfl
    exact Option.ne_none_iff_exists'.2 ⟨c, hcfg⟩

end Sys2Proof.Machine

/-! SUPPORT. The end of a transmission in the nominal case (R298, R299, R301): the completion detector's first wait is
`W0(N) · U`, it polls every `Q · U` from then on, and the look that finds the frame ended comes `9 · U` after its end. -/

namespace Sys2Proof.Machine

variable {s u : State} {c : PinConfig} {bytes : List Byte}

/-- With the first look due at `34 + N` units and a poll every 10, the next look after the frame of `35 + 11·N` units is the
one at `44 + 11·N` units, `N + 1` polls after the first (R299, R301). -/
theorem PlayedOut.look_nine_units (h : PlayedOut (encodeRecords c bytes) s u)
    (hfirst : s.tc.look = Config.w0 bytes.length * Config.u) : u.tc.look = 9 * Config.u := by
  obtain ⟨-, polls, hdue, hnear⟩ := h.looks
  rw [h.now, hfirst, totalMicros_encodeRecords] at hdue
  simp only [Config.w0, Config.q, Config.u] at hdue hnear ⊢
  omega

/-- From W_START the block by itself plays the frame to its end, and the detector's next look is then nine units ahead. -/
theorem reaches_frameEnd (hI : Inv s) (hagenda : s.agenda = []) (hinfl : s.tc.inflight = true)
    (hw : s.tc.wstep = .wStart) (hlen : bytes.length = s.tc.n) (hwave : s.wave.entry = encodeRecords c bytes) :
    ∃ u, Reaches s u ∧ u.seq.busy = false ∧ u.tc = { s.tc with wstep := .wWait, look := 9 * Config.u } ∧
      u.now = s.now + totalMicros s.wave.entry := by
  obtain ⟨-, -, -, -, -, -, -, -, -, -, -, hhold, -⟩ := id hI
  have hrem : s.seq.rem = 0 := hhold (hI.not_busy (by simp [hw]))
  obtain ⟨hstart, hI₁⟩ := hI.step_workerStep (workerStep_wStart hI hinfl hw) hagenda hinfl (by simp [hw])
  obtain ⟨u, hrun, hplayed⟩ := reaches_playedOut hI₁ hagenda rfl hrem hwave
  have hlook : u.tc.look = 9 * Config.u := hplayed.look_nine_units (hlen ▸ rfl)
  exact ⟨u, .head hstart hrun, hplayed.busy, hlook ▸ hplayed.tc, hwave ▸ hplayed.now⟩

/-- From W_ENABLE done to W_DISABLE done EN is at its active level (R45 g, R194). -/
theorem Inv.en_on_of_enActive (hI : Inv s) (hcfg : s.cfg = some c) (hact : enActive s = true) :
    lineLevel s c.enPin = !c.invertEn := by
  obtain ⟨-, -, -, -, -, -, -, hen, -⟩ := hI
  rw [hen c hcfg, hact, physicalEn_true]

/-- Settles O59: the frame played to its end, the nine units to the detector's look, and W_DISABLE. -/
theorem enFallsNineUnitsAfterFrame : Obligations.EnFallsNineUnitsAfterFrame := by
  intro s c hI hframes hcfg hagenda hinfl hw
  have hvalid : s.wave.valid = true := by
    obtain ⟨-, hheld, -⟩ := hI.flags_inflight hinfl
    rw [hheld, waveHeld, hinfl, hw]; rfl
  obtain ⟨bytes, hlen, hwave⟩ := hframes c hcfg s.wave (by simp) hvalid
  obtain ⟨e, hrun, hidle, htc, hnow⟩ := reaches_frameEnd hI hagenda hinfl hw hlen hwave
  have hinfl_e : e.tc.inflight = true := by rw [htc]; exact hinfl
  have hagenda_e : e.agenda = [] := (hrun.blockFrame hagenda).agenda.trans hagenda
  have hrun' := hrun.trans (reaches_wDisable hagenda_e hinfl_e hidle (by rw [htc]))
  have hI' := hrun'.inv hI
  have hcfg' := (hrun'.blockFrame hagenda).cfg.trans hcfg
  obtain ⟨hdisable, -⟩ := hI'.step_workerStep (workerStep_wDisable hI' hcfg' rfl) hagenda_e hinfl_e (by simp)
  obtain ⟨k, hk⟩ := hrun'
  refine ⟨k, _, _, hk, rfl, hdisable, hI'.en_on_of_enActive hcfg' (by simp [enActive, hinfl_e]), by simp, ?_⟩
  calc e.now + elapsible e.tc.look e = e.now + e.tc.look := by simp [elapsible, hidle]
    _ = s.now + totalMicros s.wave.entry + 9 * Config.u := by rw [hnow, htc]

end Sys2Proof.Machine
